-- ==== Sys2Proof/Word.lean ====
section
/-! DEFINITION. The word types of ENIGMA-CORE: symbols, characters, command words, phase codes, rotor numbers
and look-up tables (spec/00_scope.md R8, R10, R12; spec/20_memory.md R50, R54; spec/30_encoding.md R80). -/

namespace Sys2Proof

/-- R10: a symbol is a letter's alphabet index, one of 0..25.
Five wires carry it; the codes 26..31 are not symbols and no rule produces one (R22, R54, R71). -/
abbrev Sym := Fin 26

/-- R8, R10: a character code, 8 bits, read as ASCII in 0x00..0x7F. -/
abbrev CharCode := BitVec 8

/-- R75: a command word, `op` in bits [9:8], `char` in bits [7:0]. -/
abbrev CommandWord := BitVec 10

/-- R80: a phase code, the 4-bit contents of the phase register. -/
abbrev PhaseCode := BitVec 4

/-- R12: a rotor number: 0 is the rightmost rotor, 1 the middle rotor, 2 the leftmost. -/
abbrev RotorId := Fin 3

/-- R10, R50: a look-up table, 26 entries of one symbol each. -/
abbrev Table := Vector Sym 26

/-- R50, R11: the eight table names that `MemRead` takes. -/
inductive TableName where
  | w0 | w1 | w2
  | winv0 | winv1 | winv2
  | plug
  | refl
  deriving DecidableEq, Repr

/-- R173: the direction select of the rotor relay, F or B. -/
inductive Direction where
  | forward
  | backward
  deriving DecidableEq, Repr

/-- R80: what the 4-bit phase register holds: the thirteen used phases, in the order of their codes 0..12, and
the three codes no transition leads to. -/
inductive Phase where
  | idle | classify | step | plugi | r0f | r1f | r2f | refl | r2b | r1b | r0b | plugo | emit
  | unused13 | unused14 | unused15
  deriving DecidableEq, Repr

end Sys2Proof
end

