-- ==== Sys2Proof/Config.lean ====
section
/-! DEFINITION. The configuration `CFG` in its three forms (spec/00_scope.md R7; spec/30_encoding.md R85, R86), what
construction fixes from it (spec/10_state.md R23; spec/20_memory.md R50), the causes of a refused construction
(spec/60_exceptions.md R222), and the free values, which are constants without a body. -/

namespace Sys2Proof

/-- R7: one rotor of the configuration, as symbol codes that the validity check has not yet looked at. -/
structure RotorCfg where
  wiring : List Nat
  notch  : Nat
  start  : Nat
  deriving DecidableEq, Repr

/-- R7: the configuration, as sequences of symbol codes. `reflector` is `none` when it is omitted (R88). -/
structure Cfg where
  rotor0    : RotorCfg
  rotor1    : RotorCfg
  rotor2    : RotorCfg
  reflector : Option (List Nat)
  plugPairs : List Nat
  deriving DecidableEq, Repr

/-- R85: one rotor in the string form. -/
structure RotorText where
  wiring : String
  notch  : Char
  start  : Char
  deriving DecidableEq, Repr

/-- R85: the configuration in the string form. -/
structure CfgText where
  rotor0    : RotorText
  rotor1    : RotorText
  rotor2    : RotorText
  reflector : Option String
  plugPairs : String
  deriving DecidableEq, Repr

/-- R86: the configuration in the flat form. Element `i` of a sequence occupies bits [5i+4:5i]. -/
structure CfgFlat where
  rotor0Wiring    : BitVec 130
  rotor1Wiring    : BitVec 130
  rotor2Wiring    : BitVec 130
  rotor0Notch     : BitVec 5
  rotor1Notch     : BitVec 5
  rotor2Notch     : BitVec 5
  rotor0Start     : BitVec 5
  rotor1Start     : BitVec 5
  rotor2Start     : BitVec 5
  reflectorWiring : BitVec 130
  plugLen         : BitVec 5
  plugSyms        : BitVec 135
  deriving DecidableEq, Repr

/-- R222: the items of a configuration fault, in the order of their codes 0..4. -/
inductive Item where
  | rotor0 | rotor1 | rotor2 | reflector | plugboard
  deriving DecidableEq, Repr

/-- R222: the fault causes, in the order of their codes 1..8; the last is the run-time fault, which construction
never reports. -/
inductive Cause where
  | keyLength | symbolOutOfRange | keyNotPermutation | reflFixedPoint | reflNotInvolution
  | plugSelfPair | plugLetterReused
  | illegalCommand
  deriving DecidableEq, Repr

/-- R220, R222: what a refused construction reports. -/
structure InvalidConfig where
  cause : Cause
  item  : Item
  deriving DecidableEq, Repr

/-- R115, R23: the constants of one rotor: the forward table, the inverse table, the notch and the start position. -/
structure Rotor where
  wiring  : Table
  inverse : Table
  notch   : Sym
  start   : Sym
  deriving DecidableEq, Repr

/-- R50, R23: what construction fixes for the life of the block: the eight tables and the six constants. -/
structure Rom where
  rotor0 : Rotor
  rotor1 : Rotor
  rotor2 : Rotor
  plug   : Table
  refl   : Table
  deriving DecidableEq, Repr

/-- R12: the constants of rotor `ri`. -/
def Rom.rotor (rom : Rom) : RotorId → Rotor
  | 0 => rom.rotor0
  | 1 => rom.rotor1
  | 2 => rom.rotor2

/-- R50: the table of a name. -/
def Rom.table (rom : Rom) : TableName → Table
  | .w0 => rom.rotor0.wiring
  | .w1 => rom.rotor1.wiring
  | .w2 => rom.rotor2.wiring
  | .winv0 => rom.rotor0.inverse
  | .winv1 => rom.rotor1.inverse
  | .winv2 => rom.rotor2.inverse
  | .plug => rom.plug
  | .refl => rom.refl

/-- DESIGN CHOICE (log 4): the `chr` a hardware reset edge leaves ("unspecified", R250). -/
opaque Config.freeChr : Nat → CharCode

/-- DESIGN CHOICE (log 4): the `sig` a hardware reset edge leaves ("unspecified", R250). -/
opaque Config.freeSig : Nat → Sym

/-- DESIGN CHOICE (log 4): the `pass` a hardware reset edge leaves ("unspecified", R250). -/
opaque Config.freePass : Nat → Bool

/-- DESIGN CHOICE (log 6): what `rsp_char` shows while `rsp_valid = 0` ("unspecified otherwise", R36). -/
opaque Config.freeRspChar : Nat → CharCode

/-- DESIGN CHOICE (log 2): which of the two effects U10 names a phase code 13, 14 or 15 has at an edge: `true` is
"treat them as `IDLE`", `false` is "ignore them". -/
opaque Config.unusedPhaseAsIdle : Nat → Bool

end Sys2Proof
end

