-- ==== Sys2Proof/Syntax.lean ====
section
/-! DEFINITION. The instructions of ENIGMA-CORE: one constructor for each row of spec/opcode_table.json, the four host
commands (spec/30_encoding.md R76) and the sixteen phase codes (R80). -/

namespace Sys2Proof

/-- The rows of the opcode table. Only `ENC` has an operand (R76): the `char` field of the other commands is ignored
(R77). -/
inductive Instr where
  /-- R191. -/
  | nop
  /-- R186: transform the character `c`. -/
  | enc (c : CharCode)
  /-- R192. -/
  | rst
  /-- R194: the reserved opcode. -/
  | illegal
  /-- R200: no command accepted in the idle phase. -/
  | idle
  /-- R200, R187, R188: classify `chr`. -/
  | classify
  /-- R200, R161: step the rotors. -/
  | step
  /-- R138: the plugboard, towards the rotors. -/
  | plugi
  /-- R118, rotor 0. -/
  | r0f
  /-- R118, rotor 1. -/
  | r1f
  /-- R118, rotor 2. -/
  | r2f
  /-- R152. -/
  | refl
  /-- R119, rotor 2. -/
  | r2b
  /-- R119, rotor 1. -/
  | r1b
  /-- R119, rotor 0. -/
  | r0b
  /-- R138: the plugboard, away from the rotors. -/
  | plugo
  /-- R200: the response cycle. -/
  | emit
  /-- R80, U10. -/
  | phaseUnused13
  /-- R80, U10. -/
  | phaseUnused14
  /-- R80, U10. -/
  | phaseUnused15
  deriving DecidableEq, Repr

end Sys2Proof
end

