-- ==== Sys2Proof/WellFormed.lean ====
section
/-! DEFINITION. Well-formedness: of an instruction, and of the constants of a constructed block
(spec/40_permutation.md R106, spec/42_plugboard.md R139, spec/43_reflector.md R151). The thirteen checks on a
configuration (R221) are in Sys2Proof/Machine/Construct.lean. -/

namespace Sys2Proof

/-- Is the phase one of the thirteen that R80 uses? -/
def Phase.used : Phase → Bool
  | .idle | .classify | .step | .plugi | .r0f | .r1f | .r2f | .refl | .r2b | .r1b | .r0b | .plugo | .emit => true
  | .unused13 | .unused14 | .unused15 => false

/-- Does the instruction stand for a command or for a phase that R80 uses? Every operand is typed to its width and all
256 characters are legal operands of `ENC` (R77), so the unused phase codes 13, 14 and 15 are all that is refused. -/
def Instr.wellFormed : Instr → Bool
  | .nop | .enc _ | .rst | .illegal => true
  | .idle | .classify | .step | .plugi | .r0f | .r1f | .r2f | .refl | .r2b | .r1b | .r0b | .plugo | .emit => true
  | .phaseUnused13 | .phaseUnused14 | .phaseUnused15 => false

/-- Is the instruction one of the four rows of format `CMD` (R76)? -/
def Instr.isCommand : Instr → Bool
  | .nop | .enc _ | .rst | .illegal => true
  | .idle | .classify | .step | .plugi | .r0f | .r1f | .r2f | .refl | .r2b | .r1b | .r0b | .plugo | .emit => false
  | .phaseUnused13 | .phaseUnused14 | .phaseUnused15 => false

/-- R106: the two tables of a rotor undo each other. -/
abbrev Rotor.WellFormed (r : Rotor) : Prop :=
  (∀ x : Sym, r.inverse.get (r.wiring.get x) = x) ∧ (∀ x : Sym, r.wiring.get (r.inverse.get x) = x)

/-- R139: the table is its own inverse. -/
abbrev Table.SelfInverse (t : Table) : Prop := ∀ x : Sym, t.get (t.get x) = x

/-- R151: no entry equals its index. -/
abbrev Table.NoFixedPoint (t : Table) : Prop := ∀ x : Sym, t.get x ≠ x

/-- What every block built from a valid configuration has: rotor tables that undo each other (R106), a self-inverse
plugboard (R139), and a reflector that is an involution without fixed point (R151). -/
abbrev Rom.WellFormed (rom : Rom) : Prop :=
  rom.rotor0.WellFormed ∧ rom.rotor1.WellFormed ∧ rom.rotor2.WellFormed ∧
    Table.SelfInverse rom.plug ∧ Table.SelfInverse rom.refl ∧ Table.NoFixedPoint rom.refl

end Sys2Proof
end

