-- ==== Sys2Proof/Decode.lean ====
section
/-! DEFINITION. The decoder and the encoder of the two formats of spec/opcode_table.json: `CMD`, 10 bits
(spec/30_encoding.md R75 to R78), and `PHASE`, 4 bits (R80). -/

namespace Sys2Proof

/-- R75: the field `op`, bits [9:8]. -/
def CommandWord.op (w : CommandWord) : BitVec 2 := w.extractLsb' 8 2

/-- R75: the field `char`, bits [7:0]. -/
def CommandWord.char (w : CommandWord) : CharCode := w.extractLsb' 0 8

/-- R75: the concatenation of the two command-port fields, `op` in the more significant bits. -/
def CommandWord.of (op : BitVec 2) (char : CharCode) : CommandWord := op ++ char

/-- R76: the opcode map. It is total on all 1024 words (R78) and looks at `op` only (R75). -/
def decodeCommand (w : CommandWord) : Instr :=
  if w.op = 0b00#2 then .nop
  else if w.op = 0b01#2 then .enc w.char
  else if w.op = 0b10#2 then .rst
  else .illegal

/-- R80: the phase of a code. -/
def Phase.ofCode (c : PhaseCode) : Phase :=
  match c.toNat with
  | 0 => .idle
  | 1 => .classify
  | 2 => .step
  | 3 => .plugi
  | 4 => .r0f
  | 5 => .r1f
  | 6 => .r2f
  | 7 => .refl
  | 8 => .r2b
  | 9 => .r1b
  | 10 => .r0b
  | 11 => .plugo
  | 12 => .emit
  | 13 => .unused13
  | 14 => .unused14
  | _ => .unused15

/-- R80: the code of a phase. -/
def Phase.code : Phase → PhaseCode
  | .idle => 0
  | .classify => 1
  | .step => 2
  | .plugi => 3
  | .r0f => 4
  | .r1f => 5
  | .r2f => 6
  | .refl => 7
  | .r2b => 8
  | .r1b => 9
  | .r0b => 10
  | .plugo => 11
  | .emit => 12
  | .unused13 => 13
  | .unused14 => 14
  | .unused15 => 15

/-- The row of the opcode table that the phase register selects. -/
def Phase.instr : Phase → Instr
  | .idle => .idle
  | .classify => .classify
  | .step => .step
  | .plugi => .plugi
  | .r0f => .r0f
  | .r1f => .r1f
  | .r2f => .r2f
  | .refl => .refl
  | .r2b => .r2b
  | .r1b => .r1b
  | .r0b => .r0b
  | .plugo => .plugo
  | .emit => .emit
  | .unused13 => .phaseUnused13
  | .unused14 => .phaseUnused14
  | .unused15 => .phaseUnused15

/-- R80: the row of the opcode table that a phase code stands for. -/
def decodePhase (c : PhaseCode) : Instr := (Phase.ofCode c).instr

/-- An encoded instruction: a word of one of the two formats. -/
inductive EncodedWord where
  | command (w : CommandWord)
  | phase (c : PhaseCode)
  deriving DecidableEq, Repr

/-- The instruction of an encoded word. -/
def decodeWord : EncodedWord → Instr
  | .command w => decodeCommand w
  | .phase c => decodePhase c

/-- Why a number read with a width is no encoded word. -/
inductive DecodeError where
  /-- No row of the opcode table has this width. -/
  | noFormatOfThisWidth
  /-- A bit above the format's bits is 1. -/
  | bitsAboveTheFormat
  deriving DecidableEq, Repr

/-- The encoded word of a number read with a width: width 10 is `CMD`, width 4 is `PHASE`. -/
def encodedWordOfBits (width w : Nat) : Except DecodeError EncodedWord :=
  if width = 10 then
    if w < 1024 then .ok (.command (BitVec.ofNat 10 w)) else .error .bitsAboveTheFormat
  else if width = 4 then
    if w < 16 then .ok (.phase (BitVec.ofNat 4 w)) else .error .bitsAboveTheFormat
  else .error .noFormatOfThisWidth

/-- The decoder on numbers, total, rejecting by name. -/
def decodeBits (width w : Nat) : Except DecodeError Instr :=
  (encodedWordOfBits width w).map decodeWord

/-- The format's width in bits for a number of bits counted in whole bytes (16 for `CMD`, 8 for `PHASE`). -/
def formatWidth (nbits : Nat) : Nat :=
  if nbits = 16 then 10 else if nbits = 8 then 4 else nbits

/-- The instruction the decoder reads from a word of the opcode table, `nbits` its number of bits in whole bytes. -/
def decodeTableWord (nbits w : Nat) : Option Instr :=
  match decodeBits (formatWidth nbits) w with
  | .ok i => some i
  | .error _ => none

/-- R76, R80: the encoding of an instruction; an ignored `char` is encoded as 0 (R89). -/
def encode : Instr → EncodedWord
  | .nop => .command (CommandWord.of 0b00 0)
  | .enc c => .command (CommandWord.of 0b01 c)
  | .rst => .command (CommandWord.of 0b10 0)
  | .illegal => .command (CommandWord.of 0b11 0)
  | .idle => .phase 0b0000
  | .classify => .phase 0b0001
  | .step => .phase 0b0010
  | .plugi => .phase 0b0011
  | .r0f => .phase 0b0100
  | .r1f => .phase 0b0101
  | .r2f => .phase 0b0110
  | .refl => .phase 0b0111
  | .r2b => .phase 0b1000
  | .r1b => .phase 0b1001
  | .r0b => .phase 0b1010
  | .plugo => .phase 0b1011
  | .emit => .phase 0b1100
  | .phaseUnused13 => .phase 0b1101
  | .phaseUnused14 => .phase 0b1110
  | .phaseUnused15 => .phase 0b1111

/-- The number of bits of an encoded word, in whole bytes. -/
def EncodedWord.nbits : EncodedWord → Nat
  | .command _ => 16
  | .phase _ => 8

/-- The bits of an encoded word as one number, bit 0 the least significant. -/
def EncodedWord.value : EncodedWord → Nat
  | .command w => w.toNat
  | .phase c => c.toNat

end Sys2Proof
end

