-- ==== Sys2Proof/Machine/Construct.lean ====
section
/-! DEFINITION. Construction (spec/60_exceptions.md R220 to R223): the validity check, the building of the eight tables
and six constants (spec/40_permutation.md R101, R103; spec/42_plugboard.md R136; spec/43_reflector.md R150), and the
string and flat forms of the configuration (spec/30_encoding.md R85, R86, R88). -/

namespace Sys2Proof.Machine

/-- R10: `index_of` for a configuration letter. A character that is not one of `A`..`Z` has the code 26, which is no
symbol, so that "in 0..25" reads "is one of the upper-case letters" (R221). -/
def codeOfLetter (c : Char) : Nat :=
  if 'A' ≤ c ∧ c ≤ 'Z' then c.toNat - 'A'.toNat else 26

/-- R85: the symbol codes of a configuration string, from the left. -/
def codesOfText (text : String) : List Nat := text.toList.map codeOfLetter

/-- R88: the default reflector, "Reflector B". -/
def reflectorB : List Nat := codesOfText "YRUHQSLDPXNGOKMIEBFZCWVJAT"

/-- R85: the string form of one rotor. -/
def rotorCfgOfText (r : RotorText) : RotorCfg :=
  { wiring := codesOfText r.wiring, notch := codeOfLetter r.notch, start := codeOfLetter r.start }

/-- R85: the configuration that the string form stands for. -/
def cfgOfText (t : CfgText) : Cfg :=
  { rotor0 := rotorCfgOfText t.rotor0
    rotor1 := rotorCfgOfText t.rotor1
    rotor2 := rotorCfgOfText t.rotor2
    reflector := t.reflector.map codesOfText
    plugPairs := codesOfText t.plugPairs }

/-- R86: element `i` of a flat sequence, bits [5i+4:5i]. -/
def flatElement {n : Nat} (v : BitVec n) (i : Nat) : Nat := (v.extractLsb' (5 * i) 5).toNat

/-- R86: the first `k` elements of a flat sequence. -/
def flatElements {n : Nat} (v : BitVec n) (k : Nat) : List Nat := (List.range k).map (flatElement v)

/-- R86: the configuration that the flat form stands for. `PLUG_LEN` is 0..27; the flat form gives 28..31 no meaning
(log 12). -/
def cfgOfFlat (f : CfgFlat) : Option Cfg :=
  if f.plugLen.toNat ≤ 27 then
    some
      { rotor0 := { wiring := flatElements f.rotor0Wiring 26, notch := f.rotor0Notch.toNat, start := f.rotor0Start.toNat }
        rotor1 := { wiring := flatElements f.rotor1Wiring 26, notch := f.rotor1Notch.toNat, start := f.rotor1Start.toNat }
        rotor2 := { wiring := flatElements f.rotor2Wiring 26, notch := f.rotor2Notch.toNat, start := f.rotor2Start.toNat }
        reflector := some (flatElements f.reflectorWiring 26)
        plugPairs := flatElements f.plugSyms f.plugLen.toNat }
  else none

/-- R86: a sequence of 5-bit codes packed as a number, element 0 in the least significant bits. DESIGN CHOICE (log 23): of
a code of 32 or more the lowest five bits are kept. -/
def packElements : List Nat → Nat
  | [] => 0
  | x :: xs => x % 32 + 32 * packElements xs

/-- R88: the reflector with the default applied. -/
def reflectorOf (cfg : Cfg) : List Nat := cfg.reflector.getD reflectorB

/-- R86: the flat form of a configuration. DESIGN CHOICE: a configuration that the flat form cannot carry is cut to the
widths of the parameters, so an invalid one can become a valid flat one (log 23); the elements of `PLUG_SYMS` at and
above `PLUG_LEN`, which the reader ignores, are written as 0 (log 24). -/
def flatOfCfg (cfg : Cfg) : CfgFlat :=
  { rotor0Wiring := BitVec.ofNat 130 (packElements cfg.rotor0.wiring)
    rotor1Wiring := BitVec.ofNat 130 (packElements cfg.rotor1.wiring)
    rotor2Wiring := BitVec.ofNat 130 (packElements cfg.rotor2.wiring)
    rotor0Notch := BitVec.ofNat 5 cfg.rotor0.notch
    rotor1Notch := BitVec.ofNat 5 cfg.rotor1.notch
    rotor2Notch := BitVec.ofNat 5 cfg.rotor2.notch
    rotor0Start := BitVec.ofNat 5 cfg.rotor0.start
    rotor1Start := BitVec.ofNat 5 cfg.rotor1.start
    rotor2Start := BitVec.ofNat 5 cfg.rotor2.start
    reflectorWiring := BitVec.ofNat 130 (packElements (reflectorOf cfg))
    plugLen := BitVec.ofNat 5 cfg.plugPairs.length
    plugSyms := BitVec.ofNat 135 (packElements cfg.plugPairs) }

/-- R222: the code of a fault cause. -/
def causeCode : Cause → Nat
  | .keyLength => 1
  | .symbolOutOfRange => 2
  | .keyNotPermutation => 3
  | .reflFixedPoint => 4
  | .reflNotInvolution => 5
  | .plugSelfPair => 6
  | .plugLetterReused => 7
  | .illegalCommand => 8

/-- R222: the code of an item. -/
def itemCode : Item → Nat
  | .rotor0 => 0
  | .rotor1 => 1
  | .rotor2 => 2
  | .reflector => 3
  | .plugboard => 4

/-- R221 steps 2, 7, 11: every code is in 0..25. -/
def inAlphabet (codes : List Nat) : Bool := codes.all fun x => decide (x < 26)

/-- R221 steps 3, 8: every symbol 0..25 occurs exactly once. -/
def eachOnce (codes : List Nat) : Bool := (List.range 26).all fun x => codes.count x == 1

/-- R221 step 9: `REFL[i] != i` for every `i`. -/
def noFixedPoint (codes : List Nat) : Bool := (List.range 26).all fun i => codes.getD i 26 != i

/-- R221 step 10: `REFL[REFL[i]] = i` for every `i`. -/
def involutive (codes : List Nat) : Bool := (List.range 26).all fun i => codes.getD (codes.getD i 26) 26 == i

/-- R136: the pairs of a flat list, two symbols at a time; a trailing unpaired symbol belongs to no pair (R140). -/
def pairsOf : List Nat → List (Nat × Nat)
  | a :: b :: rest => (a, b) :: pairsOf rest
  | [_] => []
  | [] => []

/-- R221 step 12: no pair of a letter with itself. -/
def noSelfPair (codes : List Nat) : Bool := (pairsOf codes).all fun p => p.1 != p.2

/-- R221 step 13: `s[0..2m-1]` are pairwise distinct, `m = floor(n/2)`. -/
def pairedDistinct (codes : List Nat) : Bool := decide (codes.take (2 * (codes.length / 2))).Nodup

/-- One step of R221: whether it passes, and the fault if it does not. -/
structure Check where
  passes : Bool
  fault  : InvalidConfig
  deriving DecidableEq, Repr

/-- R221 steps 1 to 5, for one rotor. -/
def rotorChecks (item : Item) (r : RotorCfg) : List Check :=
  [ ⟨r.wiring.length == 26, ⟨.keyLength, item⟩⟩,
    ⟨inAlphabet r.wiring, ⟨.symbolOutOfRange, item⟩⟩,
    ⟨eachOnce r.wiring, ⟨.keyNotPermutation, item⟩⟩,
    ⟨decide (r.notch < 26), ⟨.symbolOutOfRange, item⟩⟩,
    ⟨decide (r.start < 26), ⟨.symbolOutOfRange, item⟩⟩ ]

/-- R221 steps 6 to 10, on the reflector after the default is applied. -/
def reflectorChecks (codes : List Nat) : List Check :=
  [ ⟨codes.length == 26, ⟨.keyLength, .reflector⟩⟩,
    ⟨inAlphabet codes, ⟨.symbolOutOfRange, .reflector⟩⟩,
    ⟨eachOnce codes, ⟨.keyNotPermutation, .reflector⟩⟩,
    ⟨noFixedPoint codes, ⟨.reflFixedPoint, .reflector⟩⟩,
    ⟨involutive codes, ⟨.reflNotInvolution, .reflector⟩⟩ ]

/-- R221 steps 11 to 13. -/
def plugboardChecks (codes : List Nat) : List Check :=
  [ ⟨inAlphabet codes, ⟨.symbolOutOfRange, .plugboard⟩⟩,
    ⟨noSelfPair codes, ⟨.plugSelfPair, .plugboard⟩⟩,
    ⟨pairedDistinct codes, ⟨.plugLetterReused, .plugboard⟩⟩ ]

/-- R221: the steps of the validity check in the order in which they are applied. -/
def checks (cfg : Cfg) : List Check :=
  rotorChecks .rotor0 cfg.rotor0 ++ rotorChecks .rotor1 cfg.rotor1 ++ rotorChecks .rotor2 cfg.rotor2 ++
    reflectorChecks (reflectorOf cfg) ++ plugboardChecks cfg.plugPairs

/-- R221: the first failing step gives the fault; `none` when every step passes. -/
def check (cfg : Cfg) : Option InvalidConfig :=
  ((checks cfg).find? fun c => !c.passes).map Check.fault

/-- The symbol of a code that the check has found to be in 0..25. -/
def symOfCode (n : Nat) : Sym := Fin.ofNat 26 n

/-- R101, R150: the forward table, `T[i] = index_of(key[i])`. -/
def forwardTable (codes : List Nat) : Table := Vector.ofFn fun i => symOfCode (codes.getD i.val 0)

/-- R103: the inverse table, `for i in 0..25: TINV[T[i]] <- i`. -/
def inverseTable (t : Table) : Table :=
  (List.finRange 26).foldl (fun inv i => inv.set (t.get i) i) (Vector.replicate 26 0)

/-- R136: the identity table the plugboard starts from. -/
def identityTable : Table := Vector.ofFn id

/-- R136: one pair, `PLUG[a] <- b; PLUG[b] <- a`. -/
def plugIn (t : Table) (p : Nat × Nat) : Table :=
  (t.set (symOfCode p.1) (symOfCode p.2)).set (symOfCode p.2) (symOfCode p.1)

/-- R136: the plugboard table of a pair list. -/
def plugTable (codes : List Nat) : Table := (pairsOf codes).foldl plugIn identityTable

/-- R115, R101, R103, R23: the constants of one rotor. -/
def buildRotor (r : RotorCfg) : Rotor :=
  { wiring := forwardTable r.wiring
    inverse := inverseTable (forwardTable r.wiring)
    notch := symOfCode r.notch
    start := symOfCode r.start }

/-- R220: the eight tables and six constants, built once the check has passed. -/
def buildRom (cfg : Cfg) : Rom :=
  { rotor0 := buildRotor cfg.rotor0
    rotor1 := buildRotor cfg.rotor1
    rotor2 := buildRotor cfg.rotor2
    plug := plugTable cfg.plugPairs
    refl := forwardTable (reflectorOf cfg) }

/-- R7, R220: a constructed block: a configuration together with the fact that its check passed. There is no block with an
invalid configuration. -/
structure Block where
  cfg   : Cfg
  valid : check cfg = none
  deriving DecidableEq, Repr

/-- R50, R52, R23: the tables and constants of a block, derived from its configuration. -/
def Block.rom (b : Block) : Rom := buildRom b.cfg

/-- R220: elaboration of the block: the fault if the check fails, else the block. -/
def elaborate (cfg : Cfg) : Except InvalidConfig Block :=
  match h : check cfg with
  | some f => .error f
  | none => .ok { cfg := cfg, valid := h }

/-- DESIGN CHOICE (log 10): the configuration State.reset is built from: `CFG_S` of spec/95_test_vectors.md, which uses
only literals that the spec's source gives. -/
def resetCfg : Cfg :=
  cfgOfText
    { rotor0 := { wiring := "YRUHQSLDPXNGOKMIEBFZCWVJAT", notch := 'Q', start := 'A' }
      rotor1 := { wiring := "YRUHQSLDPXNGOKMIEBFZCWVJAT", notch := 'E', start := 'A' }
      rotor2 := { wiring := "YRUHQSLDPXNGOKMIEBFZCWVJAT", notch := 'V', start := 'A' }
      reflector := none
      plugPairs := "AM" }

/-- DESIGN CHOICE (log 10): the block of `resetCfg`. -/
def resetBlock : Block := { cfg := resetCfg, valid := by decide }

end Sys2Proof.Machine
end

