-- ==== Sys2Proof/Machine/State.lean ====
section
/-! DEFINITION. The state of one core (spec/10_state.md R20 to R29), the input ports (R31, R32), the faults, and the
state right after reset (R40). -/

namespace Sys2Proof.Machine

/-- R21: the three position counters, rightmost rotor first. -/
structure Positions where
  p0 : Sym
  p1 : Sym
  p2 : Sym
  deriving DecidableEq, Repr

/-- R31, R32: what the input ports hold at one rising edge of `clk`. -/
structure Pins where
  rst      : Bool
  cmdValid : Bool
  cmdOp    : BitVec 2
  cmdChar  : CharCode
  deriving DecidableEq, Repr

/-- R20: the state of one core; then which block it is a core of (`block`: the parameter `CFG` of R7 with the fact that its
check passed, log 10; the tables and constants are no field, but derived from it by State.rom, R52), and the model's own
fields: the port samples of the edges to come (`inputs`, log 8), the responses the host has taken, oldest first (`responses`,
log 9), and the index of the next free value (`freeIdx`, log 7). -/
structure State where
  pos       : Positions
  flt       : Bool
  phase     : Phase
  chr       : CharCode
  sig       : Sym
  pass      : Bool
  block     : Block
  inputs    : List Pins
  responses : List CharCode
  freeIdx   : Nat
  deriving DecidableEq, Repr

/-- R52, R14: the tables and constants, derived from the configuration. -/
def State.rom (s : State) : Rom := s.block.rom

/-- R11: the faults that stop. `IllegalCommand` is none of them: it sets `FLT` and the machine goes on (R226). -/
inductive Fault where
  /-- R220: raised by `construct` alone, for a configuration that fails the check of R221: no core exists. No step
  raises it. Safe: the spec gives a machine with such a configuration no meaning. -/
  | invalidConfig (cause : Cause) (item : Item)
  deriving DecidableEq, Repr

/-- Why an instruction has no meaning. -/
inductive Refusal where
  /-- An instruction the model gives no meaning yet; `exec` has no such arm. Safe. -/
  | notModelled (mnemonic : String)
  deriving DecidableEq, Repr

/-- R120, R23: the configured starting positions. -/
def startPositions (rom : Rom) : Positions :=
  { p0 := rom.rotor0.start, p1 := rom.rotor1.start, p2 := rom.rotor2.start }

/-- R40: the state after a hardware reset edge, and equally at the end of construction, of a block. `chr`, `sig` and `pass` are unspecified there: DESIGN CHOICE 0 (log 3). -/
def State.resetOf (b : Block) : State :=
  { pos := startPositions b.rom
    flt := false
    phase := .idle
    chr := 0
    sig := 0
    pass := false
    block := b
    inputs := []
    responses := []
    freeIdx := 0 }

/-- R40: the machine right after reset, of the block of `resetCfg` (log 10). -/
def State.reset : State := State.resetOf resetBlock

end Sys2Proof.Machine
end

