-- ==== Sys2Proof/Machine/Operands.lean ====
section
/-! DEFINITION. Operand arithmetic and operand forms: addition modulo 26 (spec/00_scope.md R11), the conversions between
characters and symbols (spec/30_encoding.md R73), and the constants and positions of a rotor by its number (R12). -/

namespace Sys2Proof.Machine

/-- R11: `add26(a, b)`, as hardware forms it: the 6-bit sum, less 26 if it is 26 or more. -/
def add26 (a b : Sym) : Sym :=
  if h : a.val + b.val < 26 then ⟨a.val + b.val, h⟩
  else ⟨a.val + b.val - 26, by omega⟩

/-- R11: `sub26(a, b)`: `a - b` if `a >= b`, else `a + 26 - b`. -/
def sub26 (a b : Sym) : Sym :=
  if h : b.val ≤ a.val then ⟨a.val - b.val, by omega⟩
  else ⟨a.val + 26 - b.val, by omega⟩

/-- R11: `inc26(a)`, which is `add26(a, 1)`. -/
def inc26 (a : Sym) : Sym := add26 a 1

/-- R73: `upper(c)`. -/
def upper (c : CharCode) : CharCode :=
  if 0x61 ≤ c.toNat ∧ c.toNat ≤ 0x7A then c - 0x20 else c

/-- R73: `is_letter(c)`. -/
def isLetter (c : CharCode) : Bool := decide (0x41 ≤ (upper c).toNat ∧ (upper c).toNat ≤ 0x5A)

/-- R73: `sym_of_char(c)`, defined only when `is_letter(c)`. -/
def symOfChar? (c : CharCode) : Option Sym :=
  if isLetter c then some (Fin.ofNat 26 ((upper c).toNat - 0x41)) else none

/-- R73: `char_of_sym(s)`, the upper-case letter of a symbol. -/
def charOfSym (s : Sym) : CharCode := BitVec.ofNat 8 (0x41 + s.val)

/-- R21: `pos[i]`. -/
def Positions.get (p : Positions) : RotorId → Sym
  | 0 => p.p0
  | 1 => p.p1
  | 2 => p.p2

/-- R21: `pos[i] <- v`. -/
def Positions.set (p : Positions) (i : RotorId) (v : Sym) : Positions :=
  match i with
  | 0 => { p with p0 := v }
  | 1 => { p with p1 := v }
  | 2 => { p with p2 := v }

/-- R50: the wiring table a rotor uses in a direction. -/
def wiringTable : RotorId → Direction → TableName
  | 0, .forward => .w0
  | 1, .forward => .w1
  | 2, .forward => .w2
  | 0, .backward => .winv0
  | 1, .backward => .winv1
  | 2, .backward => .winv2

/-- R32: the command word on the command port. -/
def Pins.word (p : Pins) : CommandWord := CommandWord.of p.cmdOp p.cmdChar

/-- R89: the port sample that presents a command word. -/
def Pins.present (w : CommandWord) : Pins := { rst := false, cmdValid := true, cmdOp := w.op, cmdChar := w.char }

/-- The port sample of a host that presents nothing and does not reset (R237, log 8). -/
def Pins.quiet : Pins := { rst := false, cmdValid := false, cmdOp := 0, cmdChar := 0 }

/-- The port sample of a host that resets (R31). -/
def Pins.reset : Pins := { rst := true, cmdValid := false, cmdOp := 0, cmdChar := 0 }

end Sys2Proof.Machine
end

