-- ==== Sys2Proof/Machine/Flags.lean ====
section
/-! DEFINITION. The one flag `FLT` (spec/10_state.md R25) and the condition signals, which are functions of the state
(R26). -/

namespace Sys2Proof.Machine

/-- R25: a flag write; `FLT` is the only flag. -/
def State.setFlt (s : State) (b : Bool) : State := { s with flt := b }

/-- R117: `at_notch(i)`, evaluated on the positions given. -/
def atNotch (rom : Rom) (p : Positions) (i : RotorId) : Bool := p.get i == (rom.rotor i).notch

/-- R26: `n0`. -/
def State.n0 (s : State) : Bool := atNotch s.rom s.pos 0

/-- R26: `n1`. -/
def State.n1 (s : State) : Bool := atNotch s.rom s.pos 1

/-- R26: `is_space(c)`. -/
def isSpace (c : CharCode) : Bool := c == 0x20

end Sys2Proof.Machine
end

