-- ==== Sys2Proof/Machine/Ops.lean ====
section
/-! DEFINITION. The shared operations: register updates, table reads (spec/00_scope.md R11), the rotor, plugboard and
reflector operations (spec/41_rotor.md, spec/42_plugboard.md, spec/43_reflector.md), the stepping machine and the signal
path (spec/44_assembly.md), the response (spec/10_state.md R36), the run-time fault (spec/60_exceptions.md R226) and the
reset edge (spec/70_reset_and_hazards.md R250). -/

namespace Sys2Proof.Machine

/-! ### Register updates -/

def State.setPos (s : State) (p : Positions) : State := { s with pos := p }

def State.setPhase (s : State) (p : Phase) : State := { s with phase := p }

def State.setChr (s : State) (c : CharCode) : State := { s with chr := c }

def State.setSig (s : State) (x : Sym) : State := { s with sig := x }

def State.setPass (s : State) (b : Bool) : State := { s with pass := b }

/-- R36: the host takes a response character (log 9). -/
def State.pushResponse (s : State) (c : CharCode) : State := { s with responses := s.responses ++ [c] }

/-- The port samples at the coming edge; a host whose list is at its end presents nothing (log 8). -/
def State.pins (s : State) : Pins := s.inputs.headD Pins.quiet

/-- What every edge does to the model's own fields: the sample is used up, and the free values of the next edge are
fresh ones (logs 7, 8). -/
def State.takeEdge (s : State) : State := { s with inputs := s.inputs.tail, freeIdx := s.freeIdx + 1 }

/-! ### Table reads and component operations -/

/-- R11: `MemRead(T:i, 1)`; on a forward table `apply(T, i)` (R104), on a rotor's inverse table `apply_inverse` (R105). -/
def memRead (rom : Rom) (t : TableName) (i : Sym) : Sym := (rom.table t).get i

/-- R116: `rotate(i)`. -/
def rotate (i : RotorId) (p : Positions) : Positions := p.set i (inc26 (p.get i))

/-- R118: `forward_substitute(i, x)`. -/
def forwardSubstitute (rom : Rom) (p : Positions) (i : RotorId) (x : Sym) : Sym :=
  let a := add26 x (p.get i)
  let b := memRead rom (wiringTable i .forward) a
  sub26 b (p.get i)

/-- R119: `backward_substitute(i, x)`. -/
def backwardSubstitute (rom : Rom) (p : Positions) (i : RotorId) (x : Sym) : Sym :=
  let a := add26 x (p.get i)
  let b := memRead rom (wiringTable i .backward) a
  sub26 b (p.get i)

/-- R120: `reset(i)`. -/
def resetRotor (rom : Rom) (i : RotorId) (p : Positions) : Positions := p.set i (rom.rotor i).start

/-- R138: `substitute(x)`. -/
def substitute (rom : Rom) (x : Sym) : Sym := memRead rom .plug x

/-- R152: `reflect(x)`. -/
def reflect (rom : Rom) (x : Sym) : Sym := memRead rom .refl x

/-! ### The stepping machine and the signal path -/

/-- R161: `advance()`, the parallel form: every right-hand side is read before the edge. -/
def advance (rom : Rom) (p : Positions) : Positions :=
  let n0 := atNotch rom p 0
  let n1 := atNotch rom p 1
  { p0 := inc26 p.p0
    p1 := if n1 || n0 then inc26 p.p1 else p.p1
    p2 := if n1 then inc26 p.p2 else p.p2 }

/-- R160: `advance()`, the sequential form of the source. -/
def advanceSequential (rom : Rom) (p : Positions) : Positions :=
  let p' :=
    if atNotch rom p 1 then rotate 2 (rotate 1 p)
    else if atNotch rom p 0 then rotate 1 p
    else p
  rotate 0 p'

/-- R170: `forward_pass(x)`. -/
def forwardPass (rom : Rom) (p : Positions) (x : Sym) : Sym :=
  let x1 := forwardSubstitute rom p 0 x
  let x2 := forwardSubstitute rom p 1 x1
  forwardSubstitute rom p 2 x2

/-- R171: `backward_pass(x)`. -/
def backwardPass (rom : Rom) (p : Positions) (x : Sym) : Sym :=
  let x1 := backwardSubstitute rom p 2 x
  let x2 := backwardSubstitute rom p 1 x1
  backwardSubstitute rom p 0 x2

/-- R190: `cipher(S, x)` at the positions of `S`. -/
def cipher (rom : Rom) (p : Positions) (x : Sym) : Sym :=
  substitute rom (backwardPass rom p (reflect rom (forwardPass rom p (substitute rom x))))

/-- R173: the one rotor relay datapath, selected by `sel_rotor` and `sel_dir`. -/
def relay (rom : Rom) (p : Positions) (selRotor : RotorId) (selDir : Direction) (sig : Sym) : Sym :=
  let q := p.get selRotor
  sub26 (memRead rom (wiringTable selRotor selDir) (add26 sig q)) q

/-- R201: the selects decoded from the phase, for the six rotor phases. -/
def relaySelect : Phase → Option (RotorId × Direction)
  | .r0f => some (0, .forward)
  | .r1f => some (1, .forward)
  | .r2f => some (2, .forward)
  | .r2b => some (2, .backward)
  | .r1b => some (1, .backward)
  | .r0b => some (0, .backward)
  | .idle | .classify | .step | .plugi | .refl | .plugo | .emit | .unused13 | .unused14 | .unused15 => none

/-- R201: the table a phase reads directly by `sig`, for the three phases that pass no rotor. -/
def directTable : Phase → Option TableName
  | .plugi => some .plug
  | .refl => some .refl
  | .plugo => some .plug
  | .idle | .classify | .step | .r0f | .r1f | .r2f | .r2b | .r1b | .r0b | .emit | .unused13 | .unused14 | .unused15 => none

/-- R53, R201: the table a phase reads, if it reads one. -/
def tableRead (p : Phase) : Option TableName :=
  match relaySelect p with
  | some (rotor, dir) => some (wiringTable rotor dir)
  | none => directTable p

/-- R201: the signal-path multiplexer: the next value of `sig` in a look-up phase; in every other phase it is held. -/
def signalMux (s : State) : Sym :=
  match relaySelect s.phase with
  | some (rotor, dir) => relay s.rom s.pos rotor dir s.sig
  | none =>
    match directTable s.phase with
    | some t => memRead s.rom t s.sig
    | none => s.sig

/-- R200: one look-up phase: `sig` takes the looked-up symbol, the phase register the next phase. -/
def lookUp (f : Sym → Sym) (next : Phase) (s : State) : State := (s.setSig (f s.sig)).setPhase next

/-! ### The response, the run-time fault, the resets -/

/-- R200: the character driven in phase `EMIT`. -/
def responseChar (s : State) : CharCode :=
  match s.pass with
  | true => s.chr
  | false => charOfSym s.sig

/-- R226: `raise IllegalCommand`, the one run-time fault: `FLT <- 1`, and that is all. Nothing is saved, there is no
vector and no mode, and there is no return from it. -/
def raiseIllegalCommand (s : State) : State := s.setFlt true

/-- R192: every rotor to its starting position. -/
def resetPositions (s : State) : State := s.setPos (resetRotor s.rom 2 (resetRotor s.rom 1 (resetRotor s.rom 0 s.pos)))

/-- R250: the reset edge. `chr`, `sig` and `pass` are unspecified after it: free values (log 4). A response whose
`EMIT` cycle the edge ends was given in that cycle (R251, log 9). -/
def resetEdge (s : State) : State :=
  let given := if s.phase = .emit then s.pushResponse (responseChar s) else s
  { resetPositions given with
    flt := false
    phase := .idle
    chr := Config.freeChr s.freeIdx
    sig := Config.freeSig s.freeIdx
    pass := Config.freePass s.freeIdx }

/-- U10: what an unused phase code does at an edge, one of the two effects named there (log 2): "treat them as `IDLE`",
where no command is accepted because `cmd_ready` is 0 (R33, R34), or "ignore them". -/
def unusedPhase (s : State) : State :=
  if Config.unusedPhaseAsIdle s.freeIdx then s.setPhase .idle else s

/-! ### Construction -/

/-- R220: `construct(CFG)`: the core in the reset state, or the fault and no core. -/
def construct (cfg : Cfg) : Host.Outcome State Fault Refusal :=
  match elaborate cfg with
  | .ok b => .next (State.resetOf b)
  | .error f => .fault (.invalidConfig f.cause f.item)

end Sys2Proof.Machine
end

