-- ==== Sys2Proof/Machine/Commands.lean ====
section
/-! DEFINITION. The four host commands (spec/45_machine.md R186 to R194): what the edge at which a command is accepted
does, the rows `IDLE`, `cmd_valid = 1` of R200. What an accepted `ENC` goes on to do is done by the phases
(Sys2Proof/Machine/Phases.lean); Sys2Proof/Machine/CommandLevel.lean holds the whole of it as one transition (R185). -/

namespace Sys2Proof.Machine

/-- R191, R200: no register changes, no response. -/
def execNop (s : State) : Host.Outcome State Fault Refusal := .next (s.setPhase .idle)

/-- R186, R200: the character is taken into `chr`, and the orchestrator goes on to classify it. -/
def execEnc (c : CharCode) (s : State) : Host.Outcome State Fault Refusal := .next ((s.setChr c).setPhase .classify)

/-- R192, R200: every position to its start; `FLT` keeps its value. -/
def execRst (s : State) : Host.Outcome State Fault Refusal := .next ((resetPositions s).setPhase .idle)

/-- R194, R200: the reserved opcode raises `IllegalCommand`. -/
def execIllegal (s : State) : Host.Outcome State Fault Refusal := .next ((raiseIllegalCommand s).setPhase .idle)

end Sys2Proof.Machine
end

