-- ==== Sys2Proof/Machine/Phases.lean ====
section
/-! DEFINITION. The phases of the orchestrator (spec/45_machine.md R200): what the edge that ends a cycle in a phase
does. -/

namespace Sys2Proof.Machine

/-- R200, row `IDLE`, `cmd_valid = 0`: nothing is written. -/
def execIdle (s : State) : Host.Outcome State Fault Refusal := .next (s.setPhase .idle)

/-- R200, rows `CLASS`: a letter's symbol goes to `sig`; any other character, the space included, passes through. -/
def execClassify (s : State) : Host.Outcome State Fault Refusal :=
  match symOfChar? s.chr with
  | some x => .next (((s.setPass false).setSig x).setPhase .step)
  | none => .next ((s.setPass true).setPhase .emit)

/-- R200, R161: `advance()`. -/
def execStep (s : State) : Host.Outcome State Fault Refusal := .next ((s.setPos (advance s.rom s.pos)).setPhase .plugi)

/-- R138, R200. -/
def execPlugi (s : State) : Host.Outcome State Fault Refusal := .next (lookUp (substitute s.rom) .r0f s)

/-- R118, R200. -/
def execR0f (s : State) : Host.Outcome State Fault Refusal := .next (lookUp (forwardSubstitute s.rom s.pos 0) .r1f s)

/-- R118, R200. -/
def execR1f (s : State) : Host.Outcome State Fault Refusal := .next (lookUp (forwardSubstitute s.rom s.pos 1) .r2f s)

/-- R118, R200. -/
def execR2f (s : State) : Host.Outcome State Fault Refusal := .next (lookUp (forwardSubstitute s.rom s.pos 2) .refl s)

/-- R152, R200. -/
def execRefl (s : State) : Host.Outcome State Fault Refusal := .next (lookUp (reflect s.rom) .r2b s)

/-- R119, R200. -/
def execR2b (s : State) : Host.Outcome State Fault Refusal := .next (lookUp (backwardSubstitute s.rom s.pos 2) .r1b s)

/-- R119, R200. -/
def execR1b (s : State) : Host.Outcome State Fault Refusal := .next (lookUp (backwardSubstitute s.rom s.pos 1) .r0b s)

/-- R119, R200. -/
def execR0b (s : State) : Host.Outcome State Fault Refusal := .next (lookUp (backwardSubstitute s.rom s.pos 0) .plugo s)

/-- R138, R200. -/
def execPlugo (s : State) : Host.Outcome State Fault Refusal := .next (lookUp (substitute s.rom) .emit s)

/-- R200, R36: the response of this cycle is given, and the orchestrator goes back to `IDLE`. -/
def execEmit (s : State) : Host.Outcome State Fault Refusal := .next ((s.pushResponse (responseChar s)).setPhase .idle)

/-- R80, U10 (log 2). -/
def execPhaseUnused13 (s : State) : Host.Outcome State Fault Refusal := .next (unusedPhase s)

/-- R80, U10 (log 2). -/
def execPhaseUnused14 (s : State) : Host.Outcome State Fault Refusal := .next (unusedPhase s)

/-- R80, U10 (log 2). -/
def execPhaseUnused15 (s : State) : Host.Outcome State Fault Refusal := .next (unusedPhase s)

end Sys2Proof.Machine
end

