-- ==== Sys2Proof/Machine/Dispatch.lean ====
section
/-! DEFINITION. One arm for each instruction: one direct call of its meaning. -/

namespace Sys2Proof.Machine

def exec (i : Instr) (s : State) : Host.Outcome State Fault Refusal :=
  match i with
  | .nop => Sys2Proof.Machine.execNop s
  | .enc c => Sys2Proof.Machine.execEnc c s
  | .rst => Sys2Proof.Machine.execRst s
  | .illegal => Sys2Proof.Machine.execIllegal s
  | .idle => Sys2Proof.Machine.execIdle s
  | .classify => Sys2Proof.Machine.execClassify s
  | .step => Sys2Proof.Machine.execStep s
  | .plugi => Sys2Proof.Machine.execPlugi s
  | .r0f => Sys2Proof.Machine.execR0f s
  | .r1f => Sys2Proof.Machine.execR1f s
  | .r2f => Sys2Proof.Machine.execR2f s
  | .refl => Sys2Proof.Machine.execRefl s
  | .r2b => Sys2Proof.Machine.execR2b s
  | .r1b => Sys2Proof.Machine.execR1b s
  | .r0b => Sys2Proof.Machine.execR0b s
  | .plugo => Sys2Proof.Machine.execPlugo s
  | .emit => Sys2Proof.Machine.execEmit s
  | .phaseUnused13 => Sys2Proof.Machine.execPhaseUnused13 s
  | .phaseUnused14 => Sys2Proof.Machine.execPhaseUnused14 s
  | .phaseUnused15 => Sys2Proof.Machine.execPhaseUnused15 s

end Sys2Proof.Machine
end

