-- ==== Sys2Proof/Machine/Fetch.lean ====
section
/-! DEFINITION. Which row of the phase table an edge runs (spec/45_machine.md R200, spec/10_state.md R33), and how an
instruction is put where the next edge finds it. The hardware has no program counter and no instruction fetch (R27): the
phase register selects the row, and in `IDLE` the command port does. -/

namespace Sys2Proof.Machine

/-- R34: `cmd_ready`. -/
def cmdReady (s : State) : Bool := decide (s.phase = .idle)

/-- R33: a command is accepted at an edge with `rst = 0`, `cmd_valid = 1` and `cmd_ready = 1`. -/
def accepts (s : State) : Bool := !s.pins.rst && s.pins.cmdValid && cmdReady s

/-- The row an edge with `rst = 0` runs: the accepted command's, if one is accepted, else the phase's. -/
def fetch (s : State) : Instr :=
  if cmdReady s && s.pins.cmdValid then decodeCommand s.pins.word else s.phase.instr

/-- The state in which the next edge runs exactly the instruction of the word: a command is presented in `IDLE`; a phase
code stands in the phase register while the host presents nothing (log 8). -/
def State.placeWord (s : State) : EncodedWord → State
  | .command w => { s with phase := .idle, inputs := Pins.present w :: s.inputs }
  | .phase c => { s with phase := Phase.ofCode c, inputs := Pins.quiet :: s.inputs }

/-- State.placeWord, the word read from a number of `nbits` bits; a number that is no encoded word places nothing. -/
def State.placeBits (s : State) (nbits w : Nat) : State :=
  match encodedWordOfBits (formatWidth nbits) w with
  | .ok e => s.placeWord e
  | .error _ => s

end Sys2Proof.Machine
end

