-- ==== Sys2Proof/Machine/Step.lean ====
section
/-! DEFINITION. One step: one rising edge of `clk` (spec/10_state.md R31; spec/45_machine.md R200;
spec/60_exceptions.md R229). -/

namespace Sys2Proof.Machine

/-- One rising edge of `clk`. A reset edge beats everything (R31, R229); any other edge runs the row that `fetch`
gives. -/
def step (s : State) : Host.Outcome State Fault Refusal :=
  if s.pins.rst then .next (resetEdge s.takeEdge) else exec (fetch s) s.takeEdge

/-- The state in which the next step runs exactly the instruction of the word `w` of `nbits` bits. -/
def State.withFetchWord (s : State) (nbits w : Nat) : State := s.placeBits nbits w

end Sys2Proof.Machine
end

