-- ==== Sys2Proof/Laws/Decode.lean ====
section
/-! SUPPORT. The fields of a command word, and what the decoder makes of them. -/

namespace Sys2Proof

@[simp] theorem CommandWord.op_of (op : BitVec 2) (c : CharCode) : (CommandWord.of op c).op = op := by
  unfold CommandWord.op CommandWord.of
  ext i hi
  rw [BitVec.getElem_extractLsb', BitVec.getLsbD_append]
  simp [hi]

@[simp] theorem CommandWord.char_of (op : BitVec 2) (c : CharCode) : (CommandWord.of op c).char = c := by
  unfold CommandWord.char CommandWord.of
  ext i hi
  rw [BitVec.getElem_extractLsb', BitVec.getLsbD_append]
  simp [hi]

/-- A command word is its two fields. -/
@[simp] theorem CommandWord.of_op_char (w : CommandWord) : CommandWord.of w.op w.char = w := by
  unfold CommandWord.op CommandWord.char CommandWord.of
  ext i hi
  rw [BitVec.getElem_append]
  split
  · rw [BitVec.getElem_extractLsb', Nat.zero_add, BitVec.getLsbD_eq_getElem hi]
  · rw [BitVec.getElem_extractLsb', show 8 + (i - 8) = i by omega, BitVec.getLsbD_eq_getElem hi]

/-- A phase's code stands for that phase. -/
@[simp] theorem Phase.ofCode_code (p : Phase) : Phase.ofCode p.code = p := by
  cases p <;> rfl

end Sys2Proof
end

