-- ==== Sys2Proof/Laws/PerInstr.lean ====
section
/-! SUPPORT. Families of statements made for each instruction. -/

namespace Sys2Proof.Laws.RoundTrip

/-- Decoding the encoding of the instruction gives the instruction back, with every operand. -/
def Statement (i : Instr) : Prop := decodeWord (encode i) = i

theorem nop : Statement .nop := rfl

/-- The `char` field comes back for each of the 256 characters. -/
theorem enc (c : CharCode) : Statement (.enc c) := by
  simp only [Statement, encode, decodeWord, decodeCommand, CommandWord.op_of, CommandWord.char_of]
  rfl

theorem rst : Statement .rst := rfl
theorem illegal : Statement .illegal := rfl
theorem idle : Statement .idle := rfl
theorem classify : Statement .classify := rfl
theorem step : Statement .step := rfl
theorem plugi : Statement .plugi := rfl
theorem r0f : Statement .r0f := rfl
theorem r1f : Statement .r1f := rfl
theorem r2f : Statement .r2f := rfl
theorem refl : Statement .refl := rfl
theorem r2b : Statement .r2b := rfl
theorem r1b : Statement .r1b := rfl
theorem r0b : Statement .r0b := rfl
theorem plugo : Statement .plugo := rfl
theorem emit : Statement .emit := rfl
theorem phaseUnused13 : Statement .phaseUnused13 := rfl
theorem phaseUnused14 : Statement .phaseUnused14 := rfl
theorem phaseUnused15 : Statement .phaseUnused15 := rfl

end Sys2Proof.Laws.RoundTrip
end

