-- ==== Sys2Proof/Machine/CommandLevel.lean ====
section
/-! DEFINITION. The command level (spec/45_machine.md R185): one accepted command as one transition of the architectural
state, whole messages (R90, R196), and the number of edges a command takes on the phase machine
(spec/70_reset_and_hazards.md R262). -/

namespace Sys2Proof.Machine

/-- R185: the architectural state `S`. -/
structure Arch where
  pos : Positions
  flt : Bool
  deriving DecidableEq, Repr

/-- The architectural state of a core. -/
def State.arch (s : State) : Arch := { pos := s.pos, flt := s.flt }

/-- R186 to R189: `exec(ENC c, S)`. -/
def encodeChar (rom : Rom) (c : CharCode) (a : Arch) : Arch × Option CharCode :=
  if isSpace c then (a, some c)
  else
    match symOfChar? c with
    | none => (a, some c)
    | some x =>
      let a1 : Arch := { a with pos := advance rom a.pos }
      (a1, some (charOfSym (cipher rom a1.pos x)))

/-- R185: `exec(cmd, S)`. A phase is no command: it has no transition of its own at this level. -/
def commandExec (rom : Rom) (i : Instr) (a : Arch) : Arch × Option CharCode :=
  match i with
  | .nop => (a, none)
  | .enc c => encodeChar rom c a
  | .rst => ({ a with pos := startPositions rom }, none)
  | .illegal => ({ a with flt := true }, none)
  | .idle | .classify | .step | .plugi | .r0f | .r1f | .r2f | .refl | .r2b | .r1b | .r0b | .plugo | .emit => (a, none)
  | .phaseUnused13 | .phaseUnused14 | .phaseUnused15 => (a, none)

/-- R60: commands in the order accepted: the last state, and the responses in order. -/
def commandRun (rom : Rom) : List Instr → Arch → Arch × List CharCode
  | [], a => (a, [])
  | i :: rest, a =>
    let r := commandExec rom i a
    let t := commandRun rom rest r.1
    (t.1, r.2.toList ++ t.2)

/-- R90: `encrypt(text)`, one `ENC` for each character, in order. -/
def encryptCommands (text : List CharCode) : List Instr := text.map .enc

/-- R90: `decrypt(text)`, the same as `encrypt(text)`. -/
def decryptCommands (text : List CharCode) : List Instr := encryptCommands text

/-- R90: `reset()`. -/
def resetCommands : List Instr := [.rst]

/-- R90: the response text of `encrypt(text)`. -/
def encryptText (rom : Rom) (text : List CharCode) (a : Arch) : List CharCode := (commandRun rom (encryptCommands text) a).2

/-- R196: `normalize`. -/
def normalizeText (text : List CharCode) : List CharCode := text.map upper

/-- R262: the edges from the accepting edge to the edge that brings `IDLE` back, both counted. -/
def edgesOf : Instr → Nat
  | .nop => 1
  | .enc c => if isLetter c then 13 else 3
  | .rst => 1
  | .illegal => 1
  | .idle | .classify | .step | .plugi | .r0f | .r1f | .r2f | .refl | .r2b | .r1b | .r0b | .plugo | .emit => 1
  | .phaseUnused13 | .phaseUnused14 | .phaseUnused15 => 1

end Sys2Proof.Machine
end

