-- ==== Sys2Proof/Machine/HostPort.lean ====
section
/-! DEFINITION. The host's side of the command port (spec/70_reset_and_hazards.md R256, R258; spec/30_encoding.md R90):
the port samples with which a host issues a list of commands, each after the one before it is complete. -/

namespace Sys2Proof.Machine

/-- The sample that presents a command; a phase is no command, and nothing is presented for it. -/
def presentInstr (i : Instr) : Pins :=
  match encode i with
  | .command w => Pins.present w
  | .phase _ => Pins.quiet

/-- The samples that issue one command and wait until the core is idle again. -/
def issue (i : Instr) : List Pins := presentInstr i :: List.replicate (edgesOf i - 1) Pins.quiet

/-- The samples that issue a list of commands. -/
def issueAll (cmds : List Instr) : List Pins := cmds.flatMap issue

/-- The number of edges in which a list of commands completes. -/
def edgesOfAll (cmds : List Instr) : Nat := (cmds.map edgesOf).sum

/-- The core with a host that goes on to issue a list of commands and has taken no response yet. -/
def State.serving (s : State) (cmds : List Instr) : State := { s with inputs := issueAll cmds, responses := [] }

end Sys2Proof.Machine
end

