-- ==== Sys2Proof/Machine/Ports.lean ====
section
/-! DEFINITION. The output ports in the current cycle, functions of the state (spec/10_state.md R34, R36, R37;
spec/45_machine.md R200). `cmd_ready` is in Sys2Proof/Machine/Fetch.lean. -/

namespace Sys2Proof.Machine

/-- R37: `busy`, the complement of `cmd_ready` (R34). -/
def busy (s : State) : Bool := !cmdReady s

/-- R36: `rsp_valid`. -/
def rspValid (s : State) : Bool := decide (s.phase = .emit)

/-- R36: `rsp_char`, unspecified while `rsp_valid = 0`: a free value (log 6). -/
def rspChar (s : State) : CharCode := if rspValid s then responseChar s else Config.freeRspChar s.freeIdx

/-- R37: the port `pos<i>`, 5 bits. -/
def posPort (s : State) (i : RotorId) : BitVec 5 := BitVec.ofNat 5 (s.pos.get i).val

/-- R37: the port `flt`. -/
def fltPort (s : State) : Bool := s.flt

end Sys2Proof.Machine
end

