-- ==== Sys2Proof/Safety.lean ====
section
/-! DEFINITION. What claims call a good state: a block that a valid configuration could have built, a phase that is used,
and in-flight registers that hold what the command in flight put there (spec/10_state.md R28; spec/45_machine.md
R189, R200). -/

namespace Sys2Proof.Machine

/-- R189, R200: the symbol that `sig` holds in a phase, when the letter in flight is the symbol `x`; `none` in the phases
in which a letter's `sig` is not read. -/
def expectedSig (rom : Rom) (p : Positions) (x : Sym) : Phase → Option Sym
  | .step => some x
  | .plugi => some x
  | .r0f => some (substitute rom x)
  | .r1f => some (forwardSubstitute rom p 0 (substitute rom x))
  | .r2f => some (forwardSubstitute rom p 1 (forwardSubstitute rom p 0 (substitute rom x)))
  | .refl => some (forwardPass rom p (substitute rom x))
  | .r2b => some (reflect rom (forwardPass rom p (substitute rom x)))
  | .r1b => some (backwardSubstitute rom p 2 (reflect rom (forwardPass rom p (substitute rom x))))
  | .r0b =>
    some (backwardSubstitute rom p 1 (backwardSubstitute rom p 2 (reflect rom (forwardPass rom p (substitute rom x)))))
  | .plugo => some (backwardPass rom p (reflect rom (forwardPass rom p (substitute rom x))))
  | .emit => some (cipher rom p x)
  | .idle | .classify | .unused13 | .unused14 | .unused15 => none

/-- R28, R200: what `chr`, `sig` and `pass` hold while a command is in flight. In the phases `STEP` to `PLUGO` the
character is a letter, `pass` is 0 and `sig` is the letter's symbol on its way; in `EMIT` the same, or the character is no
letter and `pass` is 1. -/
def InFlight (s : State) : Prop :=
  match s.phase with
  | .idle | .classify | .unused13 | .unused14 | .unused15 => True
  | .emit =>
    match symOfChar? s.chr with
    | some x => s.pass = false ∧ expectedSig s.rom s.pos x s.phase = some s.sig
    | none => s.pass = true
  | .step | .plugi | .r0f | .r1f | .r2f | .refl | .r2b | .r1b | .r0b | .plugo =>
    ∃ x, symOfChar? s.chr = some x ∧ s.pass = false ∧ expectedSig s.rom s.pos x s.phase = some s.sig

/-- The invariant of every reachable state. -/
def State.Inv (s : State) : Prop := s.rom.WellFormed ∧ s.phase.used = true ∧ InFlight s

/-- The state after `n` edges, none of which answered a fault or a refusal. -/
def Reaches (s : State) (n : Nat) (t : State) : Prop := Sys2Proof.core.run n s = .next t

/-- The first `n` samples the host drives do not reset. -/
def NoResetFor (n : Nat) (s : State) : Prop := ∀ p ∈ s.inputs.take n, p.rst = false

end Sys2Proof.Machine
end

