-- ==== Sys2Proof/Certificates/Slice0/Obligations.lean ====
section
/-! DEFINITION. The statements for the provers. Each docstring names the rule of spec/ it formalises; arithmetic on `Sym`
written with `+` and `-` is arithmetic modulo 26 (R9). -/

open Sys2Proof Sys2Proof.Machine

/-! ### Encodings -/

/-- R76 to R78, R80: every row's encoding decodes to the row, `ENC` with each of its 256 operands; and the encoding's bits,
read as a number of whole bytes, are that row too. -/
def Obligations.DecodeOfEncodeIsTheInstruction : Prop :=
  ∀ i : Instr, Sys2Proof.Laws.RoundTrip.Statement i ∧ decodeTableWord (encode i).nbits (encode i).value = some i

/-- R75 to R78: a command word is `{op, char}`; the decoder looks at `op` only; `char` is an operand of `ENC` alone; and
encoding what was decoded gives the word back, the ignored bits as 0. -/
def Obligations.CommandDecoderFollowsTheOpcodeMap : Prop :=
  ∀ w : CommandWord, ∃ (op : BitVec 2) (c : CharCode),
    w = CommandWord.of op c ∧ w.toNat = 256 * op.toNat + c.toNat ∧
      decodeCommand w =
        (if op = 0b00#2 then Instr.nop else if op = 0b01#2 then Instr.enc c
          else if op = 0b10#2 then Instr.rst else Instr.illegal) ∧
      encode (decodeCommand w) = .command (CommandWord.of op (if op = 0b01#2 then c else 0))

/-- R76, R80, R89: command words written out from the encodings, and the sixteen phase codes, decode to the rows they stand
for. -/
def Obligations.WordsWrittenOutDecode : Prop :=
  decodeTableWord 16 0x148 = some (.enc 0x48) ∧ decodeTableWord 16 0x200 = some .rst ∧
  decodeTableWord 16 0x000 = some .nop ∧ decodeTableWord 16 0x300 = some .illegal ∧
  (List.range 16).map (decodeTableWord 8) =
    [Instr.idle, .classify, .step, .plugi, .r0f, .r1f, .r2f, .refl, .r2b, .r1b, .r0b, .plugo, .emit,
      .phaseUnused13, .phaseUnused14, .phaseUnused15].map some

/-! ### Arithmetic and characters -/

/-- R11: `add26`, `sub26` and `inc26` are the arithmetic modulo 26 of R9, on the mathematical integers. -/
def Obligations.SymbolArithmeticIsModulo26 : Prop :=
  ∀ a b : Sym,
    (add26 a b).val = (a.val + b.val) % 26 ∧
    ((sub26 a b).val : ℤ) = ((a.val : ℤ) - (b.val : ℤ)) % 26 ∧
    (inc26 a).val = if a.val < 25 then a.val + 1 else 0

/-- R72, R73: the letters are 0x41..0x5A and 0x61..0x7A, a lower-case letter has the symbol of its upper-case form, every
other code is left as it is, and `char_of_sym` gives the upper-case letter back. -/
def Obligations.CharacterClassesFollowTheTable : Prop :=
  (∀ c : CharCode,
    (0x41 ≤ c.toNat ∧ c.toNat ≤ 0x5A →
      upper c = c ∧ isLetter c = true ∧ ∃ x, symOfChar? c = some x ∧ x.val = c.toNat - 0x41 ∧ charOfSym x = c) ∧
    (0x61 ≤ c.toNat ∧ c.toNat ≤ 0x7A →
      (upper c).toNat = c.toNat - 0x20 ∧ isLetter c = true ∧
        ∃ x, symOfChar? c = some x ∧ x.val = c.toNat - 0x61 ∧ charOfSym x = upper c) ∧
    (¬(0x41 ≤ c.toNat ∧ c.toNat ≤ 0x5A) → ¬(0x61 ≤ c.toNat ∧ c.toNat ≤ 0x7A) →
      upper c = c ∧ isLetter c = false ∧ symOfChar? c = none)) ∧
  ∀ x : Sym, (charOfSym x).toNat = 0x41 + x.val

/-! ### Construction -/

/-- One step of R221, as a proposition, with the fault it gives when it fails. -/
def Sys2Proof.rotorSteps (item : Item) (r : RotorCfg) : List (Prop × InvalidConfig) :=
  [ (r.wiring.length = 26, ⟨.keyLength, item⟩),
    (∀ x ∈ r.wiring, x < 26, ⟨.symbolOutOfRange, item⟩),
    (∀ x < 26, r.wiring.count x = 1, ⟨.keyNotPermutation, item⟩),
    (r.notch < 26, ⟨.symbolOutOfRange, item⟩),
    (r.start < 26, ⟨.symbolOutOfRange, item⟩) ]

/-- The steps of R221 as propositions, in the order in which they are applied. -/
def Sys2Proof.validitySteps (cfg : Cfg) : List (Prop × InvalidConfig) :=
  let refl := cfg.reflector.getD
    [24, 17, 20, 7, 16, 18, 11, 3, 15, 23, 13, 6, 14, 10, 12, 8, 4, 1, 5, 25, 2, 22, 21, 9, 0, 19]
  let s := cfg.plugPairs
  let m := s.length / 2
  rotorSteps .rotor0 cfg.rotor0 ++ rotorSteps .rotor1 cfg.rotor1 ++ rotorSteps .rotor2 cfg.rotor2 ++
    [ (refl.length = 26, ⟨.keyLength, .reflector⟩),
      (∀ x ∈ refl, x < 26, ⟨.symbolOutOfRange, .reflector⟩),
      (∀ x < 26, refl.count x = 1, ⟨.keyNotPermutation, .reflector⟩),
      (∀ i < 26, refl[i]? ≠ some i, ⟨.reflFixedPoint, .reflector⟩),
      (∀ i < 26, ∃ j, refl[i]? = some j ∧ refl[j]? = some i, ⟨.reflNotInvolution, .reflector⟩),
      (∀ x ∈ s, x < 26, ⟨.symbolOutOfRange, .plugboard⟩),
      (∀ k < m, s[2 * k]? ≠ s[2 * k + 1]?, ⟨.plugSelfPair, .plugboard⟩),
      ((s.take (2 * m)).Nodup, ⟨.plugLetterReused, .plugboard⟩) ]

/-- R221, R223: the configurations accepted are exactly those that pass every step, and the fault of any other is that of
the first step that fails; in the string form a character is in 0..25 exactly when it is one of `A`..`Z`. -/
def Obligations.ValidityCheckReportsTheFirstFailingStep : Prop :=
  (∀ c : Char, codeOfLetter c < 26 ↔ 'A' ≤ c ∧ c ≤ 'Z') ∧
  ∀ cfg : Cfg,
    (check cfg = none ↔ ∀ st : Prop × InvalidConfig, st ∈ validitySteps cfg → st.1) ∧
    (∀ (k : Nat) (st : Prop × InvalidConfig), (validitySteps cfg)[k]? = some st → ¬ st.1 →
      (∀ (j : Nat) (st' : Prop × InvalidConfig), j < k → (validitySteps cfg)[j]? = some st' → st'.1) →
      check cfg = some st.2)

/-- R220: an invalid configuration gives the fault and no core; a valid one gives the core with the tables and constants
that elaboration builds, in the reset state, which meets the invariant. -/
def Obligations.ConstructionGivesAGoodCoreOrTheFault : Prop :=
  ∀ cfg : Cfg,
    (∀ f, check cfg = some f → construct cfg = .fault (.invalidConfig f.cause f.item)) ∧
    (check cfg = none → ∃ b, elaborate cfg = .ok b ∧ construct cfg = .next (State.resetOf b) ∧ b.cfg = cfg ∧
      (State.resetOf b).Inv)

/-- R101, R150, R23: entry `i` of a forward table is the symbol at position `i` of its key; the notch and start constants
are the configured symbols. -/
def Obligations.ConstructedTablesHoldTheKeys : Prop :=
  ∀ cfg b, elaborate cfg = .ok b →
    (∀ i : Sym,
      cfg.rotor0.wiring[i.val]? = some (b.rom.rotor0.wiring.get i).val ∧
      cfg.rotor1.wiring[i.val]? = some (b.rom.rotor1.wiring.get i).val ∧
      cfg.rotor2.wiring[i.val]? = some (b.rom.rotor2.wiring.get i).val ∧
      (reflectorOf cfg)[i.val]? = some (b.rom.refl.get i).val) ∧
    b.rom.rotor0.notch.val = cfg.rotor0.notch ∧ b.rom.rotor0.start.val = cfg.rotor0.start ∧
    b.rom.rotor1.notch.val = cfg.rotor1.notch ∧ b.rom.rotor1.start.val = cfg.rotor1.start ∧
    b.rom.rotor2.notch.val = cfg.rotor2.notch ∧ b.rom.rotor2.start.val = cfg.rotor2.start

/-- R106: in every constructed block the two tables of a rotor undo each other, in both orders, and both are bijections. -/
def Obligations.RotorTablesUndoEachOther : Prop :=
  ∀ cfg b, elaborate cfg = .ok b → ∀ i : RotorId,
    (∀ x : Sym, (b.rom.rotor i).inverse.get ((b.rom.rotor i).wiring.get x) = x) ∧
    (∀ x : Sym, (b.rom.rotor i).wiring.get ((b.rom.rotor i).inverse.get x) = x) ∧
    Function.Bijective (b.rom.rotor i).wiring.get ∧ Function.Bijective (b.rom.rotor i).inverse.get

/-- R139: in every constructed block the plugboard table is a bijection and its own inverse. -/
def Obligations.PlugboardIsSelfInverse : Prop :=
  ∀ cfg b, elaborate cfg = .ok b →
    Function.Bijective b.rom.plug.get ∧ ∀ x : Sym, substitute b.rom (substitute b.rom x) = x

/-- R154: in every constructed block the reflector never returns its operand, and what it gives it takes back. -/
def Obligations.ReflectorSwapsAndNeverFixes : Prop :=
  ∀ cfg b, elaborate cfg = .ok b → ∀ x y : Sym,
    reflect b.rom x ≠ x ∧ (reflect b.rom x = y → reflect b.rom y = x)

/-- R136: in every constructed block, the two letters of pair `k` are swapped, and a letter in no pair maps to itself. -/
def Obligations.PlugboardSwapsEachPair : Prop :=
  ∀ cfg b, elaborate cfg = .ok b →
    (∀ (k : Nat) (x y : Sym), cfg.plugPairs[2 * k]? = some x.val → cfg.plugPairs[2 * k + 1]? = some y.val →
      b.rom.plug.get x = y ∧ b.rom.plug.get y = x) ∧
    (∀ x : Sym, x.val ∉ cfg.plugPairs.take (2 * (cfg.plugPairs.length / 2)) → b.rom.plug.get x = x)

/-- R140: a trailing unpaired letter has no effect: it is accepted, whichever letter it is, and the tables and constants
are the same as without it. -/
def Obligations.OrphanLetterHasNoEffect : Prop :=
  ∀ (cfg : Cfg) (b : Block) (x : Sym), cfg.plugPairs.length % 2 = 0 → elaborate cfg = .ok b →
    ∃ b', elaborate { cfg with plugPairs := cfg.plugPairs ++ [x.val] } = .ok b' ∧ b'.rom = b.rom

/-- R88, R153: the default reflector, entry by entry, and it passes every check on a reflector. -/
def Obligations.DefaultReflectorIsReflectorB : Prop :=
  reflectorB = [24, 17, 20, 7, 16, 18, 11, 3, 15, 23, 13, 6, 14, 10, 12, 8, 4, 1, 5, 25, 2, 22, 21, 9, 0, 19] ∧
  (∀ cfg : Cfg, cfg.reflector = none → reflectorOf cfg = reflectorB) ∧
  (reflectorChecks reflectorB).all Check.passes = true

/-- R86: a valid configuration, packed in the flat form and read from it, is the same configuration with its reflector
written out. -/
def Obligations.FlatFormHoldsEveryValidConfiguration : Prop :=
  ∀ cfg : Cfg, check cfg = none →
    cfgOfFlat (flatOfCfg cfg) = some { cfg with reflector := some (reflectorOf cfg) }

/-- R85, R221: in the string form, a configuration with any character that is not one of `A`..`Z` is refused. -/
def Obligations.TextFormTakesUpperCaseLettersOnly : Prop :=
  ∀ (t : CfgText) (b : Block), elaborate (cfgOfText t) = .ok b →
    ∀ c : Char,
      (c ∈ t.rotor0.wiring.toList ∨ c ∈ t.rotor1.wiring.toList ∨ c ∈ t.rotor2.wiring.toList ∨
        c = t.rotor0.notch ∨ c = t.rotor1.notch ∨ c = t.rotor2.notch ∨
        c = t.rotor0.start ∨ c = t.rotor1.start ∨ c = t.rotor2.start ∨
        c ∈ t.plugPairs.toList ∨ ∃ r, t.reflector = some r ∧ c ∈ r.toList) →
      'A' ≤ c ∧ c ≤ 'Z'

/-! ### Rotors, stepping, signal path -/

/-- R121: 26 rotations bring a position back, and no smaller positive number does; no other position moves. -/
def Obligations.RotationHasPeriod26 : Prop :=
  ∀ (i j : RotorId) (p : Positions) (n : Nat),
    (((rotate i)^[n] p).get i = p.get i ↔ 26 ∣ n) ∧ (j ≠ i → ((rotate i)^[n] p).get j = p.get j)

/-- R122, R172: at fixed positions the forward and the backward substitution of each rotor undo each other, so do the two
passes through the stack, and all are bijections. -/
def Obligations.BothDirectionsUndoEachOther : Prop :=
  ∀ (rom : Rom) (p : Positions), rom.WellFormed →
    (∀ (i : RotorId) (x : Sym),
      backwardSubstitute rom p i (forwardSubstitute rom p i x) = x ∧
      forwardSubstitute rom p i (backwardSubstitute rom p i x) = x) ∧
    (∀ i : RotorId, Function.Bijective (forwardSubstitute rom p i) ∧ Function.Bijective (backwardSubstitute rom p i)) ∧
    (∀ x : Sym, backwardPass rom p (forwardPass rom p x) = x ∧ forwardPass rom p (backwardPass rom p x) = x) ∧
    Function.Bijective (forwardPass rom p) ∧ Function.Bijective (backwardPass rom p)

/-- R161, R162: the parallel form of `advance()` equals the sequential form of R160, and which rotors step follows the four
rows, one for each combination of the two conditions. -/
def Obligations.AdvanceFollowsTheFourRows : Prop :=
  ∀ (rom : Rom) (p : Positions),
    let q := advance rom p
    q = advanceSequential rom p ∧
    q.p0 = p.p0 + 1 ∧
    (p.p1 ≠ rom.rotor1.notch → p.p0 ≠ rom.rotor0.notch → q.p1 = p.p1 ∧ q.p2 = p.p2) ∧
    (p.p1 ≠ rom.rotor1.notch → p.p0 = rom.rotor0.notch → q.p1 = p.p1 + 1 ∧ q.p2 = p.p2) ∧
    (p.p1 = rom.rotor1.notch → q.p1 = p.p1 + 1 ∧ q.p2 = p.p2 + 1)

/-- R163, 90_conflicts.md C3: the double step. With `r0` at its notch and `r1` one before its notch, `r1` steps in this
advance and the next, `r2` in the second of them, and in the third `r1` steps only if `r0` is at its notch again. And
whenever `r1` is at its notch, all three step. -/
def Obligations.MiddleRotorStepsTwiceRunning : Prop :=
  (∀ (rom : Rom) (p : Positions), p.p0 = rom.rotor0.notch → p.p1 + 1 = rom.rotor1.notch →
    let p1 := advance rom p
    let p2 := advance rom p1
    let p3 := advance rom p2
    p1 = { p0 := p.p0 + 1, p1 := p.p1 + 1, p2 := p.p2 } ∧
    p2 = { p0 := p.p0 + 2, p1 := p.p1 + 2, p2 := p.p2 + 1 } ∧
    p3.p2 = p2.p2 ∧ (p3.p1 = p2.p1 + 1 ↔ p2.p0 = rom.rotor0.notch)) ∧
  (∀ (rom : Rom) (p : Positions), p.p1 = rom.rotor1.notch →
    advance rom p = { p0 := p.p0 + 1, p1 := p.p1 + 1, p2 := p.p2 + 1 })

/-- R190: the letter transform as one formula, and expanded, all arithmetic modulo 26. -/
def Obligations.CipherIsTheNineLookUps : Prop :=
  ∀ (rom : Rom) (p : Positions) (x : Sym),
    let a1 := rom.plug.get x
    let a2 := rom.rotor0.wiring.get (a1 + p.p0) - p.p0
    let a3 := rom.rotor1.wiring.get (a2 + p.p1) - p.p1
    let a4 := rom.rotor2.wiring.get (a3 + p.p2) - p.p2
    let a5 := rom.refl.get a4
    let a6 := rom.rotor2.inverse.get (a5 + p.p2) - p.p2
    let a7 := rom.rotor1.inverse.get (a6 + p.p1) - p.p1
    let a8 := rom.rotor0.inverse.get (a7 + p.p0) - p.p0
    cipher rom p x = rom.plug.get (backwardPass rom p (rom.refl.get (forwardPass rom p (rom.plug.get x)))) ∧
      cipher rom p x = rom.plug.get a8

/-- R197: at fixed positions the letter transform is an involution without fixed point. -/
def Obligations.CipherIsAnInvolutionWithoutFixedPoint : Prop :=
  ∀ (rom : Rom) (p : Positions) (x : Sym), rom.WellFormed →
    cipher rom p (cipher rom p x) = x ∧ cipher rom p x ≠ x

/-! ### The command rows and the phase rows, one edge each -/

/-- R191, R200: `NOP`, and an idle edge at which no command is accepted, change nothing. -/
def Obligations.NopAndIdleChangeNothing : Prop :=
  ∀ s : State, s.phase = .idle → exec .nop s = .next s ∧ exec .idle s = .next s

/-- R200: the edge that accepts `ENC c` takes the character and goes on to classify it; nothing else changes. -/
def Obligations.EncIsTakenForClassification : Prop :=
  ∀ (c : CharCode) (s : State), exec (.enc c) s = .next { s with chr := c, phase := .classify }

/-- R192: `RST` puts every position at its start and changes nothing else, `FLT` included. -/
def Obligations.RstRestoresTheStartPositions : Prop :=
  ∀ s : State, s.phase = .idle →
    exec .rst s =
      .next { s with pos := { p0 := s.rom.rotor0.start, p1 := s.rom.rotor1.start, p2 := s.rom.rotor2.start } }

/-- R194, R226: accepting the reserved opcode sets `FLT` and does nothing else; the core stays in `IDLE`. -/
def Obligations.ReservedOpcodeSetsFltAndNothingElse : Prop :=
  ∀ s : State, s.phase = .idle → exec .illegal s = .next { s with flt := true }

/-- R200, R187, R188: `CLASS`. A letter of either case goes on to `STEP` with its symbol; any other character, the space
included, goes to `EMIT` as a passthrough. Nothing else changes. -/
def Obligations.ClassifySeparatesLetters : Prop :=
  ∀ s : State,
    (∀ x : Sym, s.chr.toNat = 0x41 + x.val ∨ s.chr.toNat = 0x61 + x.val →
      exec .classify s = .next { s with pass := false, sig := x, phase := .step }) ∧
    ((∀ x : Sym, s.chr.toNat ≠ 0x41 + x.val ∧ s.chr.toNat ≠ 0x61 + x.val) →
      exec .classify s = .next { s with pass := true, phase := .emit })

/-- R161, R200: `STEP` advances the positions, from conditions read before the edge, and changes nothing else; the
positions are those of the sequential form of R160. -/
def Obligations.StepAdvancesThePositions : Prop :=
  ∀ s : State,
    let p : Positions :=
      { p0 := s.pos.p0 + 1
        p1 := if s.pos.p1 = s.rom.rotor1.notch ∨ s.pos.p0 = s.rom.rotor0.notch then s.pos.p1 + 1 else s.pos.p1
        p2 := if s.pos.p1 = s.rom.rotor1.notch then s.pos.p2 + 1 else s.pos.p2 }
    exec .step s = .next { s with pos := p, phase := .plugi } ∧ advanceSequential s.rom s.pos = p

/-- R138, R152, R200: the plugboard and reflector phases replace `sig` by its table entry and change nothing else. -/
def Obligations.PlugboardAndReflectorPhasesLookUp : Prop :=
  ∀ s : State,
    exec .plugi s = .next { s with sig := s.rom.plug.get s.sig, phase := .r0f } ∧
    exec .refl s = .next { s with sig := s.rom.refl.get s.sig, phase := .r2b } ∧
    exec .plugo s = .next { s with sig := s.rom.plug.get s.sig, phase := .emit }

/-- R118, R200: the forward phases: index shifted by the position, the wiring read, the output shifted back, modulo 26;
nothing else changes. -/
def Obligations.ForwardPhasesSubstitute : Prop :=
  ∀ s : State,
    exec .r0f s =
      .next { s with sig := s.rom.rotor0.wiring.get (s.sig + s.pos.p0) - s.pos.p0, phase := .r1f } ∧
    exec .r1f s =
      .next { s with sig := s.rom.rotor1.wiring.get (s.sig + s.pos.p1) - s.pos.p1, phase := .r2f } ∧
    exec .r2f s =
      .next { s with sig := s.rom.rotor2.wiring.get (s.sig + s.pos.p2) - s.pos.p2, phase := .refl }

/-- R119, R200: the backward phases: the same shifts with the inverse table; nothing else changes. -/
def Obligations.BackwardPhasesSubstitute : Prop :=
  ∀ s : State,
    exec .r2b s =
      .next { s with sig := s.rom.rotor2.inverse.get (s.sig + s.pos.p2) - s.pos.p2, phase := .r1b } ∧
    exec .r1b s =
      .next { s with sig := s.rom.rotor1.inverse.get (s.sig + s.pos.p1) - s.pos.p1, phase := .r0b } ∧
    exec .r0b s =
      .next { s with sig := s.rom.rotor0.inverse.get (s.sig + s.pos.p0) - s.pos.p0, phase := .plugo }

/-- R200, R36, R79: `EMIT` gives one response, `chr` for a passthrough and else the upper-case letter of `sig`, and goes
back to `IDLE`; nothing else changes. -/
def Obligations.EmitGivesOneResponse : Prop :=
  ∀ s : State,
    exec .emit s =
      .next { s with
        responses := s.responses ++ [if s.pass then s.chr else BitVec.ofNat 8 (0x41 + s.sig.val)]
        phase := .idle }

/-- The model's choice (log 2), after 93_implementation_defined.md U10: an unused phase code is treated as `IDLE` or
ignored; either way nothing but the phase register can change. -/
def Obligations.UnusedPhasesAreTreatedAsIdleOrIgnored : Prop :=
  ∀ s : State, ∀ i ∈ [Instr.phaseUnused13, .phaseUnused14, .phaseUnused15],
    exec i s = .next { s with phase := .idle } ∨ exec i s = .next s

/-- R173, R201: the one relay datapath is each of the six substitutions, and in each of the nine look-up phases the next
`sig` is what the multiplexer, selected by the phase, gives. -/
def Obligations.MultiplexerFeedsEveryLookUpPhase : Prop :=
  (∀ (rom : Rom) (p : Positions) (i : RotorId) (x : Sym),
    relay rom p i .forward x = (rom.rotor i).wiring.get (x + p.get i) - p.get i ∧
    relay rom p i .backward x = (rom.rotor i).inverse.get (x + p.get i) - p.get i) ∧
  (∀ s : State, s.phase ∈ [Phase.plugi, .r0f, .r1f, .r2f, .refl, .r2b, .r1b, .r0b, .plugo] →
    ∃ t, exec s.phase.instr s = .next t ∧ t.sig = signalMux s) ∧
  (∀ s : State, s.phase ∉ [Phase.plugi, .r0f, .r1f, .r2f, .refl, .r2b, .r1b, .r0b, .plugo] → signalMux s = s.sig)

/-! ### One edge of the machine -/

/-- R33, R200: an edge without reset runs the accepted command's row, or else the row of the phase, on the state whose
port sample is used up; and a placed word is the row that the next edge runs. -/
def Obligations.StepRunsTheDecodedInstruction : Prop :=
  (∀ s : State, s.takeEdge = { s with inputs := s.inputs.tail, freeIdx := s.freeIdx + 1 }) ∧
  (∀ s : State, s.pins.rst = false → s.phase = .idle → s.pins.cmdValid = true →
    step s = exec (decodeCommand (CommandWord.of s.pins.cmdOp s.pins.cmdChar)) s.takeEdge) ∧
  (∀ s : State, s.pins.rst = false → ¬(s.phase = .idle ∧ s.pins.cmdValid = true) →
    step s = exec (decodePhase s.phase.code) s.takeEdge) ∧
  (∀ (s : State) (e : EncodedWord), step (s.placeWord e) = exec (decodeWord e) (s.placeWord e).takeEdge)

/-- R250, R251: a reset edge, from every state: positions at their starts, `FLT` 0, `IDLE`, `chr`, `sig` and `pass` any
values; a command in flight is abandoned without response, unless the edge ends its `EMIT` cycle; the constants are
untouched. -/
def Obligations.ResetEdgeAbandonsEverything : Prop :=
  ∀ s : State, s.pins.rst = true → ∃ (c : CharCode) (x : Sym) (b : Bool),
    step s =
      .next
        { pos := { p0 := s.rom.rotor0.start, p1 := s.rom.rotor1.start, p2 := s.rom.rotor2.start }
          flt := false
          phase := .idle
          chr := c
          sig := x
          pass := b
          block := s.block
          inputs := s.inputs.tail
          responses := s.responses ++ (if rspValid s then [rspChar s] else [])
          freeIdx := s.freeIdx + 1 }

/-- R252: any number of reset edges, one or more, leave the reset state. -/
def Obligations.ResetMayLastAnyNumberOfEdges : Prop :=
  ∀ (n : Nat) (s : State), (∃ rest, s.inputs = List.replicate (n + 1) Pins.reset ++ rest) →
    ∃ t, Reaches s (n + 1) t ∧ t.pos = startPositions s.rom ∧ t.flt = false ∧ t.phase = .idle ∧ t.block = s.block ∧
      cmdReady t = true ∧ busy t = false ∧ rspValid t = false

/-- R34, R229: while the core is busy, and at a reset edge, the command port has no effect: what the edge does is the same
whatever is presented. -/
def Obligations.PortIsReadOnlyAtAnAcceptingEdge : Prop :=
  ∀ (s : State) (p q : Pins) (rest : List Pins), p.rst = q.rst → (cmdReady s = false ∨ p.rst = true) →
    step { s with inputs := p :: rest } = step { s with inputs := q :: rest }

/-- R191: a `NOP`, with any `char`, is indistinguishable from a cycle with `cmd_valid = 0`, with anything else on the
port. -/
def Obligations.NopIsAnEmptyCycle : Prop :=
  ∀ (s : State) (c : CharCode) (p : Pins) (rest : List Pins), p.rst = false → p.cmdValid = false →
    step { s with inputs := Pins.present (CommandWord.of 0b00 c) :: rest } = step { s with inputs := p :: rest }

/-- R21, R40: what an edge makes of the positions, in every state: only a reset edge, an accepted `RST` and the phase
`STEP` write them. -/
def Obligations.PositionsChangeOnlyByStepRstAndReset : Prop :=
  ∀ s t : State, step s = .next t →
    t.pos =
      if s.pins.rst then startPositions s.rom
      else if s.phase = .step then advance s.rom s.pos
      else if accepts s ∧ s.pins.cmdOp = 0b10 then startPositions s.rom
      else s.pos

/-- R25: what an edge makes of `FLT`, in every state: an accepted reserved opcode sets it, and only a hardware reset
clears it. -/
def Obligations.FltIsStickyUntilReset : Prop :=
  ∀ s t : State, step s = .next t →
    t.flt =
      if s.pins.rst then false
      else if accepts s ∧ s.pins.cmdOp = 0b11 then true
      else s.flt

/-- R36: an edge gives the response of its cycle, and only a cycle with `rsp_valid = 1` has one. -/
def Obligations.ResponsesAreTheValidCycles : Prop :=
  ∀ s t : State, step s = .next t →
    t.responses = s.responses ++ (if rspValid s then [rspChar s] else [])

/-- R52, R57: no edge changes the configuration of the block, a table or a constant. -/
def Obligations.TablesNeverChange : Prop :=
  ∀ s t : State, step s = .next t →
    t.block = s.block ∧ t.rom = s.rom ∧ ∀ (name : TableName) (x : Sym), memRead t.rom name x = memRead s.rom name x

/-- R227, R195: no edge faults, in any state. -/
def Obligations.EveryEdgeAnswersANextState : Prop :=
  ∀ s : State, ∃ t, step s = .next t

/-- R34, R36, R37: the output ports in terms of the state; a position port never shows a code of 26 or more (R22). -/
def Obligations.PortsShowTheState : Prop :=
  ∀ s : State,
    (cmdReady s = true ↔ s.phase = .idle) ∧ busy s = !cmdReady s ∧ (rspValid s = true ↔ s.phase = .emit) ∧
    (rspValid s = true → rspChar s = if s.pass then s.chr else BitVec.ofNat 8 (0x41 + s.sig.val)) ∧
    fltPort s = s.flt ∧ ∀ i : RotorId, (posPort s i).toNat = (s.pos.get i).val ∧ (posPort s i).toNat ≤ 25

/-! ### The invariant -/

/-- R40: what reset leaves, for every block, registers and ports (of `chr`, `sig` and `pass` it says nothing). -/
def Obligations.ResetStateIsTheSpecs : Prop :=
  ∀ b : Block,
    (State.resetOf b).pos = { p0 := b.rom.rotor0.start, p1 := b.rom.rotor1.start, p2 := b.rom.rotor2.start } ∧
    (State.resetOf b).flt = false ∧ (State.resetOf b).phase = .idle ∧
    cmdReady (State.resetOf b) = true ∧ busy (State.resetOf b) = false ∧
    rspValid (State.resetOf b) = false ∧ fltPort (State.resetOf b) = false ∧
    ∀ i : RotorId, (posPort (State.resetOf b) i).toNat = (b.rom.rotor i).start.val

/-- The invariant holds at State.reset, whose configuration is the model's choice (log 10). -/
def Obligations.InvariantHoldsAtReset : Prop := State.reset.Inv

/-- R28, R80, R189: every edge keeps the invariant: a well-formed block, a used phase, and in-flight registers that hold
what the letter in flight has become on its way. -/
def Obligations.EveryEdgeKeepsTheInvariant : Prop :=
  ∀ s t : State, s.Inv → step s = .next t → t.Inv

/-- R189, R190: in every state of the invariant, a valid response is the character itself when it is no letter, and else
the upper-case letter of the cipher at the current positions. -/
def Obligations.ValidResponseIsTheCipherOfTheCharacter : Prop :=
  ∀ s : State, s.Inv → rspValid s = true →
    (isLetter s.chr = false → rspChar s = s.chr) ∧
    (∀ x, symOfChar? s.chr = some x → rspChar s = charOfSym (cipher s.rom s.pos x))

/-! ### Commands from acceptance to completion -/

/-- R202: from acceptance until the core is idle again, the phase machine does exactly what the command-level rule says,
whatever else the host presents meanwhile. -/
def Obligations.MicroSequenceImplementsTheCommand : Prop :=
  ∀ (s : State) (i : Instr), accepts s = true → decodeCommand s.pins.word = i → NoResetFor (edgesOf i) s →
    ∃ t, Reaches s (edgesOf i) t ∧ t.phase = .idle ∧ t.arch = (commandExec s.rom i s.arch).1 ∧
      t.responses = s.responses ++ (commandExec s.rom i s.arch).2.toList ∧
      t.block = s.block ∧ t.inputs = s.inputs.drop (edgesOf i) ∧
      ∀ k u, 0 < k → k < edgesOf i → Reaches s k u → busy u = true

/-- R262: the cycles of an `ENC` on the reference sequencer, the model's choice (log 20). A letter: busy in cycles 1 to 12, the response in cycle 12 alone, the positions changed
at the edge that ends cycle 2. A passthrough: busy in cycles 1 and 2, the response, the character itself, in cycle 2, the
positions never changed. -/
def Obligations.EncTakesItsCycles : Prop :=
  ∀ (s : State) (c : CharCode), accepts s = true → decodeCommand s.pins.word = .enc c →
    NoResetFor (edgesOf (.enc c)) s →
    (isLetter c = true → ∀ k, 1 ≤ k → k ≤ 13 → ∃ t, Reaches s k t ∧
      (busy t = true ↔ k ≤ 12) ∧ (rspValid t = true ↔ k = 12) ∧
      t.pos = if k ≤ 2 then s.pos else advance s.rom s.pos) ∧
    (isLetter c = false → ∀ k, 1 ≤ k → k ≤ 3 → ∃ t, Reaches s k t ∧
      (busy t = true ↔ k ≤ 2) ∧ (rspValid t = true ↔ k = 2) ∧ (k = 2 → rspChar t = c) ∧ t.pos = s.pos)

/-- R195, R200, R262: from every used phase the core is idle again, within 12 edges, if it is not reset. That it comes back
to `IDLE` is R195; the bound is the reference sequencer's, the model's choice (log 20). -/
def Obligations.EveryCommandTerminates : Prop :=
  ∀ s : State, s.phase.used = true → NoResetFor 12 s → ∃ n t, n ≤ 12 ∧ Reaches s n t ∧ t.phase = .idle

/-- R28, R40: `chr`, `sig` and `pass` of an idle core are unobservable: two idle cores that differ in nothing else (and in
the model's free values) show the same positions, flag and phase, and have given the same responses, after any number of
edges. -/
def Obligations.IdleWorkingRegistersAreUnobservable : Prop :=
  ∀ (s s' : State) (n : Nat) (t t' : State), s.phase = .idle →
    (∃ c x b k, s' = { s with chr := c, sig := x, pass := b, freeIdx := k }) →
    Reaches s n t → Reaches s' n t' →
    t'.pos = t.pos ∧ t'.flt = t.flt ∧ t'.phase = t.phase ∧ t'.responses = t.responses

/-! ### The command level and whole messages -/

/-- R187, R188, R189: `ENC` at the command level: a passthrough is returned unchanged and changes nothing; a letter steps
the rotors once and is enciphered at the new positions; both cases of a letter do the same. -/
def Obligations.EncAtTheCommandLevel : Prop :=
  ∀ (rom : Rom) (a : Arch) (c : CharCode),
    (isLetter c = false → commandExec rom (.enc c) a = (a, some c)) ∧
    (∀ x, symOfChar? c = some x →
      commandExec rom (.enc c) a =
        ({ a with pos := advance rom a.pos }, some (charOfSym (cipher rom (advance rom a.pos) x)))) ∧
    (isLetter c = true → commandExec rom (.enc (upper c)) a = commandExec rom (.enc c) a)

/-- R164, R198: in a text, `advance()` runs exactly once for every letter and never for another character, and every
character gets one response. -/
def Obligations.OneAdvancePerLetterOneResponsePerCharacter : Prop :=
  ∀ (rom : Rom) (a : Arch) (text : List CharCode),
    (commandRun rom (encryptCommands text) a).1 = { a with pos := (advance rom)^[text.countP isLetter] a.pos } ∧
    (encryptText rom text a).length = text.length

/-- R191, R226, R25: `NOP` and the reserved opcode, wherever they stand in a command stream, and the value of `FLT`, change
no response and no position. -/
def Obligations.NopAndReservedOpcodeChangeNoResponse : Prop :=
  ∀ (rom : Rom) (a b : Arch) (cmds : List Instr), a.pos = b.pos →
    (commandRun rom cmds a).2 = (commandRun rom (cmds.filter fun i => i != .nop && i != .illegal) b).2 ∧
    (commandRun rom cmds a).1.pos = (commandRun rom (cmds.filter fun i => i != .nop && i != .illegal) b).1.pos

/-- R196: reciprocity at the command level: from the start positions, enciphering the ciphertext gives the normalised
text. -/
def Obligations.EncipheringTwiceGivesTheTextBack : Prop :=
  ∀ (rom : Rom) (a : Arch) (text : List CharCode), rom.WellFormed →
    encryptText rom (encryptText rom text a) a = normalizeText text

/-- R196, R90: reciprocity on the machine: from any idle core of a valid configuration, `RST` and `encrypt(p)`, then `RST`
and `encrypt` of the responses, edge by edge, give `normalize(p)`. -/
def Obligations.DecipheringOnTheMachineGivesTheTextBack : Prop :=
  ∀ (s : State) (text : List CharCode), s.phase = .idle →
    ∃ t u : State,
      Reaches (s.serving (resetCommands ++ encryptCommands text)) (edgesOfAll (resetCommands ++ encryptCommands text)) t ∧
      Reaches (t.serving (resetCommands ++ decryptCommands t.responses))
        (edgesOfAll (resetCommands ++ decryptCommands t.responses)) u ∧
      u.responses = normalizeText text

/-- R185, R202: a host that issues a list of commands, each after the one before is complete, gets from the machine, edge
by edge, the responses, the positions and the flag of the command level. -/
def Obligations.ServingCommandsFollowsTheCommandLevel : Prop :=
  ∀ (s : State) (cmds : List Instr), s.phase = .idle → (∀ i ∈ cmds, i.isCommand = true) →
    ∃ t, Reaches (s.serving cmds) (edgesOfAll cmds) t ∧ t.phase = .idle ∧
      t.arch = (commandRun s.rom cmds s.arch).1 ∧ t.responses = (commandRun s.rom cmds s.arch).2 ∧ t.block = s.block
end

