-- ==== Sys2Proof/Machine/Assembler.lean ====
section
/-! DEFINITION. The written form of commands, command words and responses (spec/30_encoding.md R89). -/

namespace Sys2Proof.Machine

/-- The written digit of a value 0..15: the ten decimal digits stand from 0x30 on, the six upper-case letters from 0x41
on. -/
def hexDigit (n : Nat) : Char := Char.ofNat (n + if n < 10 then 0x30 else 0x41 - 10)

/-- The value 0..15 whose written digit this is, in either case (log 19). -/
def hexValue (c : Char) : Option Nat := (List.range 16).find? fun n => hexDigit n == c.toUpper

/-- R89: a character as a hexadecimal code. -/
def writeChar (c : CharCode) : List Char := ['0', 'x', hexDigit (c.toNat / 16), hexDigit (c.toNat % 16)]

/-- R89: a command as text; a phase has none. -/
def writeCommand : Instr → Option (List Char)
  | .nop => some ['N', 'O', 'P']
  | .enc c => some (['E', 'N', 'C', ' '] ++ writeChar c)
  | .rst => some ['R', 'S', 'T']
  | .illegal => some ['I', 'L', 'L', 'E', 'G', 'A', 'L']
  | .idle | .classify | .step | .plugi | .r0f | .r1f | .r2f | .refl | .r2b | .r1b | .r0b | .plugo | .emit => none
  | .phaseUnused13 | .phaseUnused14 | .phaseUnused15 => none

/-- R89: a command read from text: the operand of `ENC` is one character in quotes, as ASCII, or a hexadecimal code. -/
def readCommand : List Char → Option Instr
  | ['N', 'O', 'P'] => some .nop
  | ['R', 'S', 'T'] => some .rst
  | ['I', 'L', 'L', 'E', 'G', 'A', 'L'] => some .illegal
  | ['E', 'N', 'C', ' ', '0', 'x', h, l] =>
    match hexValue h, hexValue l with
    | some a, some b => some (.enc (BitVec.ofNat 8 (16 * a + b)))
    | _, _ => none
  | ['E', 'N', 'C', ' ', '\'', c, '\''] => if c.toNat < 128 then some (.enc (BitVec.ofNat 8 c.toNat)) else none
  | _ => none

/-- R89: a command word as three hexadecimal digits of the 10-bit value. -/
def writeWord (w : CommandWord) : List Char :=
  ['0', 'x', hexDigit (w.toNat / 256), hexDigit (w.toNat / 16 % 16), hexDigit (w.toNat % 16)]

/-- R89: a response as text. -/
def writeResponse (c : CharCode) : List Char := ['-', '>', ' '] ++ writeChar c

end Sys2Proof.Machine
end

