-- ==== Sys2Proof/Laws/Assembler.lean ====
section
/-! SUPPORT. The written form of commands reads back. -/

namespace Sys2Proof.Machine

/-- A written digit has the value it was written for. -/
theorem hexValue_hexDigit {n : Nat} (h : n < 16) : hexValue (hexDigit n) = some n := by
  have : ∀ k ∈ List.range 16, hexValue (hexDigit k) = some k := by decide
  exact this n (List.mem_range.2 h)

/-- A command as text is read as that command. -/
theorem readCommand_writeCommand {i : Instr} {text : List Char} (h : writeCommand i = some text) :
    readCommand text = some i := by
  cases i <;> simp only [writeCommand, reduceCtorEq, Option.some.injEq] at h <;> subst h <;> try rfl
  case enc c =>
    have hc := c.isLt
    simp only [writeChar, List.cons_append, List.nil_append, readCommand,
      hexValue_hexDigit (show c.toNat / 16 < 16 by omega), hexValue_hexDigit (show c.toNat % 16 < 16 by omega)]
    rw [Nat.div_add_mod, BitVec.ofNat_toNat, BitVec.setWidth_eq]

end Sys2Proof.Machine
end

