-- ==== Sys2Proof/Laws/Construct.lean ====
section
/-! SUPPORT. What construction builds: one lemma for each function of Sys2Proof/Machine/Construct.lean. -/

namespace Sys2Proof.Machine

/-- What an elaboration that succeeds says. -/
theorem elaborate_ok {cfg : Cfg} {b : Block} (h : elaborate cfg = .ok b) : check cfg = none ∧ b.cfg = cfg := by
  unfold elaborate at h
  split at h
  · cases h
  · rename_i hc
    cases h
    exact ⟨hc, rfl⟩

/-- A block is what the elaboration of its configuration gives. -/
theorem elaborate_cfg (b : Block) : elaborate b.cfg = .ok b := by
  unfold elaborate
  split
  · rename_i hc
    rw [b.valid] at hc
    cases hc
  · rfl

/-- The elaboration of a valid configuration. -/
theorem elaborate_of_valid {cfg : Cfg} (h : check cfg = none) : elaborate cfg = .ok { cfg := cfg, valid := h } :=
  elaborate_cfg { cfg := cfg, valid := h }

/-- The elaboration of an invalid configuration. -/
theorem elaborate_of_invalid {cfg : Cfg} {f : InvalidConfig} (h : check cfg = some f) : elaborate cfg = .error f := by
  unfold elaborate
  split
  · rename_i g hc
    rw [h] at hc
    cases hc
    rfl
  · rename_i hc
    rw [h] at hc
    cases hc

/-- The symbol of a code in 0..25 has that code. -/
theorem symOfCode_val {n : Nat} (h : n < 26) : (symOfCode n).val = n := Nat.mod_eq_of_lt h

/-- A symbol is the symbol of its code. -/
@[simp] theorem symOfCode_self (x : Sym) : symOfCode x.val = x := Fin.ext (symOfCode_val x.isLt)

/-- An entry of a forward table. -/
theorem forwardTable_get (codes : List Nat) (i : Sym) : (forwardTable codes).get i = symOfCode (codes.getD i.val 0) := by
  simp [forwardTable, Vector.get_eq_getElem]

/-- An entry of the identity table. -/
@[simp] theorem identityTable_get (x : Sym) : identityTable.get x = x := by
  simp [identityTable, Vector.get_eq_getElem]

/-- An entry of a table after one pair is plugged in. -/
theorem plugIn_get (t : Table) (p : Nat × Nat) (x : Sym) :
    (plugIn t p).get x =
      if x = symOfCode p.2 then symOfCode p.1 else if x = symOfCode p.1 then symOfCode p.2 else t.get x := by
  simp only [plugIn, Vector.get_eq_getElem, Vector.getElem_set]
  simp only [Fin.ext_iff, eq_comm]

/-- The loop of R103, over any list of distinct indices of an injective table. -/
theorem inverse_loop_get {t : Table} (ht : Function.Injective t.get) {l : List Sym} (hl : l.Nodup) (acc : Table) (x : Sym) :
    (l.foldl (fun inv i => inv.set (t.get i) i) acc).get (t.get x) = if x ∈ l then x else acc.get (t.get x) := by
  induction l generalizing acc with
  | nil => simp
  | cons a l ih =>
    rw [List.foldl_cons, ih (List.nodup_cons.1 hl).2]
    by_cases hx : x ∈ l
    · simp [hx]
    · by_cases hxa : x = a
      · subst hxa
        simp [hx, Vector.get_eq_getElem]
      · have hne : t.get a ≠ t.get x := fun h => hxa (ht h).symm
        simp [hx, hxa, Vector.get_eq_getElem, Vector.getElem_set]
        intro hh
        exact absurd (Fin.ext hh) hne

/-- The inverse table of an injective table takes every entry back to its index. -/
theorem inverseTable_get {t : Table} (ht : Function.Injective t.get) (x : Sym) : (inverseTable t).get (t.get x) = x := by
  rw [inverseTable, inverse_loop_get ht (List.nodup_finRange 26)]
  simp

end Sys2Proof.Machine
end

