-- ==== Sys2Proof/Laws/State.lean ====
section
/-! SUPPORT. One lemma for each field of State and each update: what the update makes of the field. -/

namespace Sys2Proof.Machine

/-! ### State.rom: the tables depend on the block alone -/

@[simp] theorem State.block_rom (s : State) : s.block.rom = s.rom := rfl
@[simp] theorem State.rom_mk (pos : Positions) (flt : Bool) (phase : Phase) (chr : CharCode) (sig : Sym) (pass : Bool)
    (b : Block) (inputs : List Pins) (responses : List CharCode) (freeIdx : Nat) :
    (State.mk pos flt phase chr sig pass b inputs responses freeIdx).rom = b.rom := rfl

/-- Two states of one block have the same tables and constants. -/
theorem State.rom_eq_of_block {s t : State} (h : t.block = s.block) : t.rom = s.rom := congrArg Block.rom h

/-! ### State.setPos -/

@[simp] theorem State.setPos_pos (s : State) (p : Positions) : (s.setPos p).pos = p := rfl
@[simp] theorem State.setPos_flt (s : State) (p : Positions) : (s.setPos p).flt = s.flt := rfl
@[simp] theorem State.setPos_phase (s : State) (p : Positions) : (s.setPos p).phase = s.phase := rfl
@[simp] theorem State.setPos_chr (s : State) (p : Positions) : (s.setPos p).chr = s.chr := rfl
@[simp] theorem State.setPos_sig (s : State) (p : Positions) : (s.setPos p).sig = s.sig := rfl
@[simp] theorem State.setPos_pass (s : State) (p : Positions) : (s.setPos p).pass = s.pass := rfl
@[simp] theorem State.setPos_block (s : State) (p : Positions) : (s.setPos p).block = s.block := rfl
@[simp] theorem State.setPos_rom (s : State) (p : Positions) : (s.setPos p).rom = s.rom := rfl
@[simp] theorem State.setPos_inputs (s : State) (p : Positions) : (s.setPos p).inputs = s.inputs := rfl
@[simp] theorem State.setPos_responses (s : State) (p : Positions) : (s.setPos p).responses = s.responses := rfl
@[simp] theorem State.setPos_freeIdx (s : State) (p : Positions) : (s.setPos p).freeIdx = s.freeIdx := rfl

/-! ### State.setFlt -/

@[simp] theorem State.setFlt_pos (s : State) (b : Bool) : (s.setFlt b).pos = s.pos := rfl
@[simp] theorem State.setFlt_flt (s : State) (b : Bool) : (s.setFlt b).flt = b := rfl
@[simp] theorem State.setFlt_phase (s : State) (b : Bool) : (s.setFlt b).phase = s.phase := rfl
@[simp] theorem State.setFlt_chr (s : State) (b : Bool) : (s.setFlt b).chr = s.chr := rfl
@[simp] theorem State.setFlt_sig (s : State) (b : Bool) : (s.setFlt b).sig = s.sig := rfl
@[simp] theorem State.setFlt_pass (s : State) (b : Bool) : (s.setFlt b).pass = s.pass := rfl
@[simp] theorem State.setFlt_block (s : State) (b : Bool) : (s.setFlt b).block = s.block := rfl
@[simp] theorem State.setFlt_rom (s : State) (b : Bool) : (s.setFlt b).rom = s.rom := rfl
@[simp] theorem State.setFlt_inputs (s : State) (b : Bool) : (s.setFlt b).inputs = s.inputs := rfl
@[simp] theorem State.setFlt_responses (s : State) (b : Bool) : (s.setFlt b).responses = s.responses := rfl
@[simp] theorem State.setFlt_freeIdx (s : State) (b : Bool) : (s.setFlt b).freeIdx = s.freeIdx := rfl

/-! ### State.setPhase -/

@[simp] theorem State.setPhase_pos (s : State) (p : Phase) : (s.setPhase p).pos = s.pos := rfl
@[simp] theorem State.setPhase_flt (s : State) (p : Phase) : (s.setPhase p).flt = s.flt := rfl
@[simp] theorem State.setPhase_phase (s : State) (p : Phase) : (s.setPhase p).phase = p := rfl
@[simp] theorem State.setPhase_chr (s : State) (p : Phase) : (s.setPhase p).chr = s.chr := rfl
@[simp] theorem State.setPhase_sig (s : State) (p : Phase) : (s.setPhase p).sig = s.sig := rfl
@[simp] theorem State.setPhase_pass (s : State) (p : Phase) : (s.setPhase p).pass = s.pass := rfl
@[simp] theorem State.setPhase_block (s : State) (p : Phase) : (s.setPhase p).block = s.block := rfl
@[simp] theorem State.setPhase_rom (s : State) (p : Phase) : (s.setPhase p).rom = s.rom := rfl
@[simp] theorem State.setPhase_inputs (s : State) (p : Phase) : (s.setPhase p).inputs = s.inputs := rfl
@[simp] theorem State.setPhase_responses (s : State) (p : Phase) : (s.setPhase p).responses = s.responses := rfl
@[simp] theorem State.setPhase_freeIdx (s : State) (p : Phase) : (s.setPhase p).freeIdx = s.freeIdx := rfl

/-! ### State.setChr -/

@[simp] theorem State.setChr_pos (s : State) (c : CharCode) : (s.setChr c).pos = s.pos := rfl
@[simp] theorem State.setChr_flt (s : State) (c : CharCode) : (s.setChr c).flt = s.flt := rfl
@[simp] theorem State.setChr_phase (s : State) (c : CharCode) : (s.setChr c).phase = s.phase := rfl
@[simp] theorem State.setChr_chr (s : State) (c : CharCode) : (s.setChr c).chr = c := rfl
@[simp] theorem State.setChr_sig (s : State) (c : CharCode) : (s.setChr c).sig = s.sig := rfl
@[simp] theorem State.setChr_pass (s : State) (c : CharCode) : (s.setChr c).pass = s.pass := rfl
@[simp] theorem State.setChr_block (s : State) (c : CharCode) : (s.setChr c).block = s.block := rfl
@[simp] theorem State.setChr_rom (s : State) (c : CharCode) : (s.setChr c).rom = s.rom := rfl
@[simp] theorem State.setChr_inputs (s : State) (c : CharCode) : (s.setChr c).inputs = s.inputs := rfl
@[simp] theorem State.setChr_responses (s : State) (c : CharCode) : (s.setChr c).responses = s.responses := rfl
@[simp] theorem State.setChr_freeIdx (s : State) (c : CharCode) : (s.setChr c).freeIdx = s.freeIdx := rfl

/-! ### State.setSig -/

@[simp] theorem State.setSig_pos (s : State) (x : Sym) : (s.setSig x).pos = s.pos := rfl
@[simp] theorem State.setSig_flt (s : State) (x : Sym) : (s.setSig x).flt = s.flt := rfl
@[simp] theorem State.setSig_phase (s : State) (x : Sym) : (s.setSig x).phase = s.phase := rfl
@[simp] theorem State.setSig_chr (s : State) (x : Sym) : (s.setSig x).chr = s.chr := rfl
@[simp] theorem State.setSig_sig (s : State) (x : Sym) : (s.setSig x).sig = x := rfl
@[simp] theorem State.setSig_pass (s : State) (x : Sym) : (s.setSig x).pass = s.pass := rfl
@[simp] theorem State.setSig_block (s : State) (x : Sym) : (s.setSig x).block = s.block := rfl
@[simp] theorem State.setSig_rom (s : State) (x : Sym) : (s.setSig x).rom = s.rom := rfl
@[simp] theorem State.setSig_inputs (s : State) (x : Sym) : (s.setSig x).inputs = s.inputs := rfl
@[simp] theorem State.setSig_responses (s : State) (x : Sym) : (s.setSig x).responses = s.responses := rfl
@[simp] theorem State.setSig_freeIdx (s : State) (x : Sym) : (s.setSig x).freeIdx = s.freeIdx := rfl

/-! ### State.setPass -/

@[simp] theorem State.setPass_pos (s : State) (b : Bool) : (s.setPass b).pos = s.pos := rfl
@[simp] theorem State.setPass_flt (s : State) (b : Bool) : (s.setPass b).flt = s.flt := rfl
@[simp] theorem State.setPass_phase (s : State) (b : Bool) : (s.setPass b).phase = s.phase := rfl
@[simp] theorem State.setPass_chr (s : State) (b : Bool) : (s.setPass b).chr = s.chr := rfl
@[simp] theorem State.setPass_sig (s : State) (b : Bool) : (s.setPass b).sig = s.sig := rfl
@[simp] theorem State.setPass_pass (s : State) (b : Bool) : (s.setPass b).pass = b := rfl
@[simp] theorem State.setPass_block (s : State) (b : Bool) : (s.setPass b).block = s.block := rfl
@[simp] theorem State.setPass_rom (s : State) (b : Bool) : (s.setPass b).rom = s.rom := rfl
@[simp] theorem State.setPass_inputs (s : State) (b : Bool) : (s.setPass b).inputs = s.inputs := rfl
@[simp] theorem State.setPass_responses (s : State) (b : Bool) : (s.setPass b).responses = s.responses := rfl
@[simp] theorem State.setPass_freeIdx (s : State) (b : Bool) : (s.setPass b).freeIdx = s.freeIdx := rfl

/-! ### State.pushResponse -/

@[simp] theorem State.pushResponse_pos (s : State) (c : CharCode) : (s.pushResponse c).pos = s.pos := rfl
@[simp] theorem State.pushResponse_flt (s : State) (c : CharCode) : (s.pushResponse c).flt = s.flt := rfl
@[simp] theorem State.pushResponse_phase (s : State) (c : CharCode) : (s.pushResponse c).phase = s.phase := rfl
@[simp] theorem State.pushResponse_chr (s : State) (c : CharCode) : (s.pushResponse c).chr = s.chr := rfl
@[simp] theorem State.pushResponse_sig (s : State) (c : CharCode) : (s.pushResponse c).sig = s.sig := rfl
@[simp] theorem State.pushResponse_pass (s : State) (c : CharCode) : (s.pushResponse c).pass = s.pass := rfl
@[simp] theorem State.pushResponse_block (s : State) (c : CharCode) : (s.pushResponse c).block = s.block := rfl
@[simp] theorem State.pushResponse_rom (s : State) (c : CharCode) : (s.pushResponse c).rom = s.rom := rfl
@[simp] theorem State.pushResponse_inputs (s : State) (c : CharCode) : (s.pushResponse c).inputs = s.inputs := rfl
@[simp] theorem State.pushResponse_responses (s : State) (c : CharCode) : (s.pushResponse c).responses = s.responses ++ [c] := rfl
@[simp] theorem State.pushResponse_freeIdx (s : State) (c : CharCode) : (s.pushResponse c).freeIdx = s.freeIdx := rfl

/-! ### State.takeEdge -/

@[simp] theorem State.takeEdge_pos (s : State) : s.takeEdge.pos = s.pos := rfl
@[simp] theorem State.takeEdge_flt (s : State) : s.takeEdge.flt = s.flt := rfl
@[simp] theorem State.takeEdge_phase (s : State) : s.takeEdge.phase = s.phase := rfl
@[simp] theorem State.takeEdge_chr (s : State) : s.takeEdge.chr = s.chr := rfl
@[simp] theorem State.takeEdge_sig (s : State) : s.takeEdge.sig = s.sig := rfl
@[simp] theorem State.takeEdge_pass (s : State) : s.takeEdge.pass = s.pass := rfl
@[simp] theorem State.takeEdge_block (s : State) : s.takeEdge.block = s.block := rfl
@[simp] theorem State.takeEdge_rom (s : State) : s.takeEdge.rom = s.rom := rfl
@[simp] theorem State.takeEdge_inputs (s : State) : s.takeEdge.inputs = s.inputs.tail := rfl
@[simp] theorem State.takeEdge_responses (s : State) : s.takeEdge.responses = s.responses := rfl
@[simp] theorem State.takeEdge_freeIdx (s : State) : s.takeEdge.freeIdx = s.freeIdx + 1 := rfl

/-! ### The reset state and the architectural state -/

@[simp] theorem State.resetOf_pos (b : Block) : (State.resetOf b).pos = startPositions b.rom := rfl
@[simp] theorem State.resetOf_flt (b : Block) : (State.resetOf b).flt = false := rfl
@[simp] theorem State.resetOf_phase (b : Block) : (State.resetOf b).phase = .idle := rfl
@[simp] theorem State.resetOf_block (b : Block) : (State.resetOf b).block = b := rfl
@[simp] theorem State.resetOf_rom (b : Block) : (State.resetOf b).rom = b.rom := rfl
@[simp] theorem State.resetOf_inputs (b : Block) : (State.resetOf b).inputs = [] := rfl
@[simp] theorem State.resetOf_responses (b : Block) : (State.resetOf b).responses = [] := rfl

end Sys2Proof.Machine
end

