-- ==== Sys2Proof/Laws/Ops.lean ====
section
/-! SUPPORT. One lemma for each shared operation, saying once everything it can do. -/

namespace Sys2Proof.Machine

/-! ### Operands -/

/-- `add26` is addition modulo 26. -/
theorem add26_eq_add (a b : Sym) : add26 a b = a + b := by
  unfold add26
  apply Fin.ext
  split <;> simp only [Fin.val_add] <;> omega

/-- `sub26` is subtraction modulo 26. -/
theorem sub26_eq_sub (a b : Sym) : sub26 a b = a - b := by
  unfold sub26
  apply Fin.ext
  split <;> simp only [Fin.val_sub] <;> omega

/-- `inc26` adds one modulo 26. -/
theorem inc26_eq_add_one (a : Sym) : inc26 a = a + 1 := add26_eq_add a 1

/-- A character has a symbol exactly when it is a letter. -/
theorem symOfChar?_isSome (c : CharCode) : (symOfChar? c).isSome = isLetter c := by
  unfold symOfChar?
  cases isLetter c <;> rfl

/-- A character that is no letter has no symbol. -/
theorem symOfChar?_eq_none_iff (c : CharCode) : symOfChar? c = none ↔ isLetter c = false := by
  rw [← symOfChar?_isSome]
  cases symOfChar? c <;> simp

/-- The symbol of the letter of a symbol is that symbol. -/
theorem symOfChar?_charOfSym (x : Sym) : symOfChar? (charOfSym x) = some x := by
  revert x
  decide

@[simp] theorem Positions.get_zero (p : Positions) : p.get 0 = p.p0 := rfl
@[simp] theorem Positions.get_one (p : Positions) : p.get 1 = p.p1 := rfl
@[simp] theorem Positions.get_two (p : Positions) : p.get 2 = p.p2 := rfl

/-- A position read after a write of the same rotor's position. -/
theorem Positions.get_set_same (p : Positions) (i : RotorId) (v : Sym) : (p.set i v).get i = v := by
  fin_cases i <;> rfl

/-- A position read after a write of another rotor's position. -/
theorem Positions.get_set_other (p : Positions) {i j : RotorId} (v : Sym) (h : j ≠ i) :
    (p.set i v).get j = p.get j := by
  fin_cases i <;> fin_cases j <;> first | rfl | exact absurd rfl h

/-! ### Table reads -/

/-- The forward table of a rotor is its wiring. -/
theorem table_forward (rom : Rom) (i : RotorId) : rom.table (wiringTable i .forward) = (rom.rotor i).wiring := by
  fin_cases i <;> rfl

/-- The backward table of a rotor is its inverse. -/
theorem table_backward (rom : Rom) (i : RotorId) : rom.table (wiringTable i .backward) = (rom.rotor i).inverse := by
  fin_cases i <;> rfl

/-- What `forward_substitute` computes. -/
theorem forwardSubstitute_eq (rom : Rom) (p : Positions) (i : RotorId) (x : Sym) :
    forwardSubstitute rom p i x = (rom.rotor i).wiring.get (x + p.get i) - p.get i := by
  simp only [forwardSubstitute, memRead, add26_eq_add, sub26_eq_sub, table_forward]

/-- What `backward_substitute` computes. -/
theorem backwardSubstitute_eq (rom : Rom) (p : Positions) (i : RotorId) (x : Sym) :
    backwardSubstitute rom p i x = (rom.rotor i).inverse.get (x + p.get i) - p.get i := by
  simp only [backwardSubstitute, memRead, add26_eq_add, sub26_eq_sub, table_backward]

/-- What `substitute` reads. -/
theorem substitute_eq (rom : Rom) (x : Sym) : substitute rom x = rom.plug.get x := rfl

/-- What `reflect` reads. -/
theorem reflect_eq (rom : Rom) (x : Sym) : reflect rom x = rom.refl.get x := rfl

/-- A well-formed block's rotors have tables that undo each other. -/
theorem rotor_wellFormed {rom : Rom} (h : rom.WellFormed) (i : RotorId) : (rom.rotor i).WellFormed := by
  fin_cases i
  · exact h.1
  · exact h.2.1
  · exact h.2.2.1

/-! ### The stepping machine and the resets -/

/-- What `advance` does to each position. -/
theorem advance_eq (rom : Rom) (p : Positions) :
    advance rom p =
      { p0 := p.p0 + 1
        p1 := if p.p1 = rom.rotor1.notch ∨ p.p0 = rom.rotor0.notch then p.p1 + 1 else p.p1
        p2 := if p.p1 = rom.rotor1.notch then p.p2 + 1 else p.p2 } := by
  simp [advance, atNotch, inc26_eq_add_one, Rom.rotor]

/-- Resetting the three rotors puts every position at its start and changes nothing else. -/
theorem resetPositions_eq (s : State) : resetPositions s = s.setPos (startPositions s.rom) := rfl

/-- A look-up phase writes `sig` and the phase register. -/
theorem lookUp_eq (f : Sym → Sym) (next : Phase) (s : State) : lookUp f next s = { s with sig := f s.sig, phase := next } := rfl

/-- An unused phase code has one of two effects, whatever the free choice is. -/
theorem unusedPhase_cases (s : State) : unusedPhase s = s.setPhase .idle ∨ unusedPhase s = s := by
  unfold unusedPhase
  split
  · exact .inl rfl
  · exact .inr rfl

/-- The response character, as a choice on `pass`. -/
theorem responseChar_eq (s : State) : responseChar s = if s.pass then s.chr else charOfSym s.sig := by
  unfold responseChar
  cases s.pass <;> rfl

/-- Taking an edge leaves the response character of the cycle as it is. -/
@[simp] theorem responseChar_takeEdge (s : State) : responseChar s.takeEdge = responseChar s := rfl

/-- A passthrough responds with the character. -/
theorem responseChar_pass {s : State} (h : s.pass = true) : responseChar s = s.chr := by
  rw [responseChar_eq, if_pos h]

/-- A letter responds with the letter of `sig`. -/
theorem responseChar_letter {s : State} (h : s.pass = false) : responseChar s = charOfSym s.sig := by
  rw [responseChar_eq, if_neg (by simp [h])]

/-- Everything a reset edge does. -/
theorem resetEdge_eq (s : State) :
    resetEdge s =
      { pos := startPositions s.rom
        flt := false
        phase := .idle
        chr := Config.freeChr s.freeIdx
        sig := Config.freeSig s.freeIdx
        pass := Config.freePass s.freeIdx
        block := s.block
        inputs := s.inputs
        responses := s.responses ++ (if s.phase = .emit then [responseChar s] else [])
        freeIdx := s.freeIdx } := by
  unfold resetEdge
  by_cases h : s.phase = .emit <;> simp [h, resetPositions_eq]

/-! ### The command level -/

/-- A passthrough at the command level: the response is the character, and nothing changes. -/
theorem encodeChar_passthrough {c : CharCode} (h : isLetter c = false) (rom : Rom) (a : Arch) :
    encodeChar rom c a = (a, some c) := by
  unfold encodeChar
  split
  · rfl
  · rw [(symOfChar?_eq_none_iff c).2 h]

/-- A letter at the command level: one advance, then the cipher at the new positions. -/
theorem encodeChar_letter {c : CharCode} {x : Sym} (h : symOfChar? c = some x) (rom : Rom) (a : Arch) :
    encodeChar rom c a =
      ({ a with pos := advance rom a.pos }, some (charOfSym (cipher rom (advance rom a.pos) x))) := by
  have hs : isSpace c = false := by
    cases hsp : isSpace c
    · rfl
    · simp only [isSpace, beq_iff_eq] at hsp
      rw [hsp, show symOfChar? 0x20 = none by decide] at h
      cases h
  simp [encodeChar, hs, h]

end Sys2Proof.Machine
end

