-- ==== Sys2Proof/Laws/Step.lean ====
section
/-! SUPPORT. What an instruction and an edge can do, said once. -/

namespace Sys2Proof.Machine

/-- No instruction touches the constants of the block or the host's samples, or counts the edge. -/
theorem exec_keeps_block {i : Instr} {s t : State} (h : exec i s = .next t) :
    t.block = s.block ∧ t.inputs = s.inputs ∧ t.freeIdx = s.freeIdx := by
  cases i <;> simp only [exec, execNop, execEnc, execRst, execIllegal, execIdle, execClassify, execStep, execPlugi,
    execR0f, execR1f, execR2f, execRefl, execR2b, execR1b, execR0b, execPlugo, execEmit, execPhaseUnused13,
    execPhaseUnused14, execPhaseUnused15] at h
  case classify =>
    split at h <;> cases h <;> simp
  case phaseUnused13 | phaseUnused14 | phaseUnused15 =>
    cases h
    rcases unusedPhase_cases s with hu | hu <;> rw [hu] <;> simp
  all_goals
    cases h
    simp [lookUp, raiseIllegalCommand, resetPositions]

/-- An edge that resets, and an edge that does not. -/
theorem step_cases (s : State) :
    (s.pins.rst = true ∧ step s = .next (resetEdge s.takeEdge)) ∨
      (s.pins.rst = false ∧ step s = exec (fetch s) s.takeEdge) := by
  unfold step
  cases h : s.pins.rst
  · exact .inr ⟨rfl, rfl⟩
  · exact .inl ⟨rfl, rfl⟩

/-- What `fetch` gives: the presented command in `IDLE`, else the row of the phase. -/
theorem fetch_cases (s : State) :
    (s.phase = .idle ∧ s.pins.cmdValid = true ∧ fetch s = decodeCommand s.pins.word) ∨
      (¬(s.phase = .idle ∧ s.pins.cmdValid = true) ∧ fetch s = s.phase.instr) := by
  unfold fetch cmdReady
  by_cases h : s.phase = .idle ∧ s.pins.cmdValid = true
  · exact .inl ⟨h.1, h.2, by simp [h.1, h.2]⟩
  · refine .inr ⟨h, if_neg ?_⟩
    simpa using h

end Sys2Proof.Machine
end

