-- ==== Sys2Proof/Tests/Slice0.lean ====
section
/-! SUPPORT. Tests: expected results are the spec's own (spec/95_test_vectors.md, V and P numbers, and the worked
examples of the rules); and for each statement with hypotheses a witness that meets them. -/

namespace Sys2Proof.Tests

open Sys2Proof Sys2Proof.Machine

/-! ### Configurations of spec/95_test_vectors.md section 0 -/

def wiringI : String := "EKMFLGDQVZNTOWYHXUSPAIBRCJ"
def wiringII : String := "AJDKSIRUXBLHWTMCQGZNPYFVOE"
def wiringIII : String := "BDFHJLCPRTXVZNYEIWGAKMUSQO"
def wiringB : String := "YRUHQSLDPXNGOKMIEBFZCWVJAT"

/-- `CFG_A` as text. -/
def textA : CfgText :=
  { rotor0 := ⟨wiringI, 'Q', 'A'⟩, rotor1 := ⟨wiringII, 'E', 'A'⟩, rotor2 := ⟨wiringIII, 'V', 'A'⟩
    reflector := none, plugPairs := "AMFINVPSTUWZ" }

/-- `CFG_A`. -/
def cfgA : Cfg := cfgOfText textA

/-- `CFG_C`: as `CFG_A` with start letters P, D, Z. -/
def cfgC : Cfg :=
  cfgOfText { textA with rotor0 := ⟨wiringI, 'Q', 'P'⟩, rotor1 := ⟨wiringII, 'E', 'D'⟩, rotor2 := ⟨wiringIII, 'V', 'Z'⟩ }

/-- The block of `CFG_A`. -/
def blockA : Block := { cfg := cfgA, valid := by decide }

/-- The block of `CFG_C`. -/
def blockC : Block := { cfg := cfgC, valid := by decide }

def romA : Rom := blockA.rom
def romC : Rom := blockC.rom

/-- A core of `CFG_A` in a phase, with a symbol in flight, at given positions. -/
def coreAt (phase : Phase) (sig : Sym) (pos : Positions) : State :=
  { State.resetOf blockA with phase := phase, sig := sig, pos := pos }

/-- A core of `CFG_A` at its `CLASS` phase with a character. -/
def coreWithChar (c : CharCode) : State := { State.resetOf blockA with phase := .classify, chr := c }

/-- The next state, where there is one. -/
def nextOf : Host.Outcome State Fault Refusal → Option State
  | .next s => some s
  | .fault _ => none
  | .refused _ => none

/-! ### Decoding: words written out from R75, R76 and R80 -/

theorem test_command_words_decode :
    decodeCommand 0b0000000000 = .nop ∧ decodeCommand 0b0011111111 = .nop ∧
    decodeCommand 0b0101001000 = .enc 0x48 ∧ decodeCommand 0b0111101001 = .enc 0xE9 ∧
    decodeCommand 0b1000000000 = .rst ∧ decodeCommand 0b1011111111 = .rst ∧
    decodeCommand 0b1100000000 = .illegal ∧ decodeCommand 0b1111111111 = .illegal := by decide

theorem test_phase_words_decode :
    decodePhase 0b0000 = .idle ∧ decodePhase 0b0001 = .classify ∧ decodePhase 0b0010 = .step ∧
    decodePhase 0b0011 = .plugi ∧ decodePhase 0b0100 = .r0f ∧ decodePhase 0b0101 = .r1f ∧
    decodePhase 0b0110 = .r2f ∧ decodePhase 0b0111 = .refl ∧ decodePhase 0b1000 = .r2b ∧
    decodePhase 0b1001 = .r1b ∧ decodePhase 0b1010 = .r0b ∧ decodePhase 0b1011 = .plugo ∧
    decodePhase 0b1100 = .emit ∧ decodePhase 0b1101 = .phaseUnused13 ∧ decodePhase 0b1110 = .phaseUnused14 ∧
    decodePhase 0b1111 = .phaseUnused15 := by decide

theorem test_words_outside_the_formats_are_rejected :
    decodeTableWord 16 0x400 = none ∧ decodeTableWord 8 0x10 = none ∧ decodeTableWord 32 0 = none := by decide

/-- R89: the words of the programs P1 to P3. -/
theorem test_written_words :
    encode (.enc 0x48) = .command 0x148 ∧ encode .rst = .command 0x200 ∧ encode .nop = .command 0x000 ∧
    encode .illegal = .command 0x300 ∧ writeWord 0x1E9 = ['0', 'x', '1', 'E', '9'] := by decide

/-- R89: `ENC 'H'` and `ENC 0x48` are one command. -/
theorem test_read_command :
    readCommand ['E', 'N', 'C', ' ', '\'', 'H', '\''] = some (.enc 0x48) ∧
    readCommand ['E', 'N', 'C', ' ', '0', 'x', '4', '8'] = some (.enc 0x48) ∧
    readCommand ['I', 'L', 'L', 'E', 'G', 'A', 'L'] = some .illegal ∧
    (writeCommand (.enc 0x48)).bind readCommand = some (.enc 0x48) ∧
    writeResponse 0x58 = ['-', '>', ' ', '0', 'x', '5', '8'] := by decide

/-! ### Well-formedness: each check refuses an ill-formed term -/

theorem test_unused_phase_codes_are_ill_formed :
    Instr.wellFormed .phaseUnused13 = false ∧ Instr.wellFormed .phaseUnused14 = false ∧
    Instr.wellFormed .phaseUnused15 = false ∧ Instr.wellFormed (.enc 0xFF) = true ∧ Phase.used .unused13 = false := by
  decide

theorem test_built_rom_is_well_formed : romA.WellFormed := by decide

theorem test_rotor_with_wrong_inverse_is_ill_formed :
    ¬ Rom.WellFormed { romA with rotor0 := { romA.rotor0 with inverse := romA.rotor0.wiring } } ∧
    ¬ Rom.WellFormed { romA with rotor1 := { romA.rotor1 with inverse := romA.rotor1.wiring } } ∧
    ¬ Rom.WellFormed { romA with rotor2 := { romA.rotor2 with inverse := romA.rotor2.wiring } } := by decide

theorem test_plugboard_that_is_not_self_inverse_is_ill_formed :
    ¬ Rom.WellFormed { romA with plug := romA.rotor0.wiring } := by decide

theorem test_reflector_that_is_no_involution_is_ill_formed : ¬ Table.SelfInverse romA.rotor0.wiring := by decide

theorem test_reflector_with_fixed_point_is_ill_formed :
    ¬ Rom.WellFormed { romA with refl := identityTable } := by decide

/-! ### Construction: V11, V12, V17, V19, V26, R153 -/

theorem test_inverse_of_rotor_I :
    romA.rotor0.inverse = forwardTable (codesOfText "UWYGADFPVZBECKMTHXSLRINQOJ") := by decide

theorem test_plugboard_table : romA.plug = forwardTable (codesOfText "MBCDEIGHFJKLAVOSQRPUTNZXYW") := by decide

theorem test_thirteen_pairs_and_an_orphan :
    check { cfgA with plugPairs := codesOfText "ABCDEFGHIJKLMNOPQRSTUVWXYZA" } = none ∧
    plugTable (codesOfText "ABCDEFGHIJKLMNOPQRSTUVWXYZA") = forwardTable (codesOfText "BADCFEHGJILKNMPORQTSVUXWZY") := by
  decide

theorem test_orphans_are_accepted :
    check { cfgA with plugPairs := codesOfText "AMA" } = none ∧ check { cfgA with plugPairs := codesOfText "A" } = none ∧
    plugTable (codesOfText "AMF") = plugTable (codesOfText "MA") ∧ plugTable (codesOfText "A") = identityTable := by decide

theorem test_plugboard_faults :
    check { cfgA with plugPairs := codesOfText "AA" } = some ⟨.plugSelfPair, .plugboard⟩ ∧
    check { cfgA with plugPairs := codesOfText "AMAB" } = some ⟨.plugLetterReused, .plugboard⟩ ∧
    check { cfgA with plugPairs := codesOfText "AMBM" } = some ⟨.plugLetterReused, .plugboard⟩ ∧
    check { cfgA with plugPairs := codesOfText "AMMA" } = some ⟨.plugLetterReused, .plugboard⟩ ∧
    check { cfgA with plugPairs := codesOfText "AAMA" } = some ⟨.plugSelfPair, .plugboard⟩ ∧
    check { cfgA with plugPairs := codesOfText "Am" } = some ⟨.symbolOutOfRange, .plugboard⟩ := by decide

theorem test_reflector_faults :
    check { cfgA with reflector := some (codesOfText "ABCDEFGHIJKLMNOPQRSTUVWXYZ") } = some ⟨.reflFixedPoint, .reflector⟩ ∧
    check { cfgA with reflector := some (codesOfText "BADCFEHGJILKNMPORQTSVUXWYZ") } = some ⟨.reflFixedPoint, .reflector⟩ ∧
    check { cfgA with reflector := some (codesOfText "BCDEFGHIJKLMNOPQRSTUVWXYZA") } =
      some ⟨.reflNotInvolution, .reflector⟩ ∧
    check { cfgA with reflector := some [] } = some ⟨.keyLength, .reflector⟩ := by decide

/-- Log 22: rotor wiring I maps S to S, so R221's step 9 refuses it as a reflector before step 10 is reached. -/
theorem test_rotor_I_as_reflector_has_a_fixed_point :
    check { cfgA with reflector := some (codesOfText wiringI) } = some ⟨.reflFixedPoint, .reflector⟩ := by decide

theorem test_rotor_faults :
    check { cfgA with rotor1 := { cfgA.rotor1 with wiring := cfgA.rotor1.wiring.take 25 } } = some ⟨.keyLength, .rotor1⟩ ∧
    check { cfgA with rotor0 := { cfgA.rotor0 with wiring := codesOfText "AACDEFGHIJKLMNOPQRSTUVWXYZ" } } =
      some ⟨.keyNotPermutation, .rotor0⟩ ∧
    check { cfgA with rotor2 := { cfgA.rotor2 with notch := 26 } } = some ⟨.symbolOutOfRange, .rotor2⟩ ∧
    check { cfgA with rotor2 := { cfgA.rotor2 with notch := codeOfLetter 'q' } } = some ⟨.symbolOutOfRange, .rotor2⟩ ∧
    check { cfgA with rotor2 := { cfgA.rotor2 with start := 26 }, plugPairs := codesOfText "AA" } =
      some ⟨.symbolOutOfRange, .rotor2⟩ := by decide

theorem test_fault_codes :
    [Cause.keyLength, .symbolOutOfRange, .keyNotPermutation, .reflFixedPoint, .reflNotInvolution, .plugSelfPair,
      .plugLetterReused, .illegalCommand].map causeCode = [1, 2, 3, 4, 5, 6, 7, 8] ∧
    [Item.rotor0, .rotor1, .rotor2, .reflector, .plugboard].map itemCode = [0, 1, 2, 3, 4] := by decide

/-! ### Arithmetic, characters, rotors: V10, V13 to V18, V52 -/

theorem test_add26_sub26_inc26 :
    add26 25 25 = 24 ∧ sub26 25 25 = 0 ∧ add26 3 25 = 2 ∧ sub26 3 25 = 4 ∧ sub26 12 25 = 13 ∧ sub26 0 25 = 1 ∧
    inc26 24 = 25 ∧ inc26 25 = 0 := by decide

theorem test_boundary_characters_pass_through :
    [0x00, 0x20, 0x31, 0x40, 0x5B, 0x60, 0x7B, 0x7F, 0x80, 0xC1, 0xE9, 0xFF].map symOfChar? = List.replicate 12 none := by
  decide

theorem test_boundary_letters :
    symOfChar? 0x41 = some 0 ∧ symOfChar? 0x5A = some 25 ∧ symOfChar? 0x61 = some 0 ∧ symOfChar? 0x7A = some 25 ∧
    charOfSym 0 = 0x41 ∧ charOfSym 25 = 0x5A ∧ isSpace 0x20 = true := by decide

theorem test_rotate_and_reset :
    rotate 0 ⟨25, 3, 4⟩ = ⟨0, 3, 4⟩ ∧ rotate 1 ⟨0, 16, 4⟩ = ⟨0, 17, 4⟩ ∧ resetRotor romC 0 ⟨3, 4, 5⟩ = ⟨15, 4, 5⟩ := by
  decide

theorem test_notch : atNotch romA ⟨16, 0, 0⟩ 0 = true ∧ atNotch romA ⟨15, 0, 0⟩ 0 = false ∧ atNotch romA ⟨17, 0, 0⟩ 0 = false := by
  decide

theorem test_forward_substitute :
    forwardSubstitute romA ⟨0, 0, 0⟩ 0 0 = 4 ∧ forwardSubstitute romA ⟨1, 0, 0⟩ 0 7 = 20 ∧
    forwardSubstitute romA ⟨25, 0, 0⟩ 0 3 = 13 ∧ forwardSubstitute romA ⟨25, 0, 0⟩ 0 1 = 5 ∧
    forwardSubstitute romA ⟨16, 0, 0⟩ 0 25 = 17 := by decide

theorem test_backward_substitute :
    backwardSubstitute romA ⟨1, 0, 0⟩ 0 20 = 7 ∧ backwardSubstitute romA ⟨25, 0, 0⟩ 0 13 = 3 ∧
    backwardSubstitute romA ⟨25, 0, 0⟩ 0 5 = 1 ∧ backwardSubstitute romA ⟨16, 0, 0⟩ 0 17 = 25 := by decide

/-- R53: the nine reads of a letter, in order. -/
theorem test_table_reads_of_a_letter :
    [Phase.classify, .step, .plugi, .r0f, .r1f, .r2f, .refl, .r2b, .r1b, .r0b, .plugo, .emit].filterMap tableRead =
      [.plug, .w0, .w1, .w2, .refl, .winv2, .winv1, .winv0, .plug] := by decide

/-! ### Stepping: V40 to V49, with `notch[0] = 21` (V), `notch[1] = 4` (E), `notch[2] = 16` (Q) -/

/-- The rotor order of `CFG_B`. -/
def romB : Rom := { romA with rotor0 := romA.rotor2, rotor2 := romA.rotor0 }

theorem test_advance_vectors :
    advance romB ⟨0, 0, 0⟩ = ⟨1, 0, 0⟩ ∧ advance romB ⟨20, 3, 0⟩ = ⟨21, 3, 0⟩ ∧
    advance romB ⟨21, 3, 0⟩ = ⟨22, 4, 0⟩ ∧ advance romB ⟨22, 4, 0⟩ = ⟨23, 5, 1⟩ ∧
    advance romB ⟨21, 4, 0⟩ = ⟨22, 5, 1⟩ ∧ advance romB ⟨25, 25, 25⟩ = ⟨0, 25, 25⟩ ∧
    advance romB ⟨21, 3, 25⟩ = ⟨22, 4, 25⟩ ∧ advance romB ⟨0, 4, 25⟩ = ⟨1, 5, 0⟩ ∧
    advance romB ⟨25, 4, 16⟩ = ⟨0, 5, 17⟩ ∧ advance romB ⟨21, 25, 7⟩ = ⟨22, 0, 7⟩ := by decide

/-! ### The command level: V20, V24, V25, V31 -/

theorem test_alphabet_after_reset :
    (List.finRange 26).map (cipher romA ⟨1, 0, 0⟩) =
      (codesOfText "HZSONLYAMRVFIEDXTJCQWKUPGB").map symOfCode := by decide

theorem test_commands_at_the_command_level :
    commandExec romA (.enc 0x48) ⟨⟨0, 0, 0⟩, false⟩ = (⟨⟨1, 0, 0⟩, false⟩, some 0x41) ∧
    commandExec romA (.enc 0x20) ⟨⟨5, 0, 0⟩, false⟩ = (⟨⟨5, 0, 0⟩, false⟩, some 0x20) ∧
    commandExec romC (.enc 0x74) ⟨⟨17, 4, 25⟩, true⟩ = (⟨⟨18, 5, 0⟩, true⟩, some 0x58) ∧
    commandExec romC .rst ⟨⟨18, 5, 0⟩, true⟩ = (⟨⟨15, 3, 25⟩, true⟩, none) ∧
    commandExec romA .illegal ⟨⟨1, 2, 3⟩, false⟩ = (⟨⟨1, 2, 3⟩, true⟩, none) := by decide

/-! ### One instruction each: the rows of V27 and V30 -/

theorem test_nop : (nextOf (exec .nop State.reset)) = some State.reset := by decide

theorem test_enc : (nextOf (exec (.enc 0x48) State.reset)).map (fun t => (t.chr, t.phase, t.pos)) =
    some (0x48, .classify, ⟨0, 0, 0⟩) := by decide

theorem test_rst : (nextOf (exec .rst { State.resetOf blockC with pos := ⟨18, 5, 0⟩, flt := true })).map State.arch =
    some ⟨⟨15, 3, 25⟩, true⟩ := by decide

theorem test_illegal : (nextOf (exec .illegal { State.resetOf blockC with pos := ⟨18, 5, 0⟩ })).map State.arch =
    some ⟨⟨18, 5, 0⟩, true⟩ := by decide

theorem test_idle : nextOf (exec .idle State.reset) = some State.reset := by decide

theorem test_classify_letter : (nextOf (exec .classify (coreWithChar 0x68))).map (fun t => (t.sig, t.pass, t.phase)) =
    some (7, false, .step) := by decide

theorem test_classify_passthrough :
    (nextOf (exec .classify (coreWithChar 0x20))).map (fun t => (t.pass, t.phase, t.pos)) =
      some (true, .emit, ⟨0, 0, 0⟩) := by decide

theorem test_step : (nextOf (exec .step (coreAt .step 7 ⟨0, 0, 0⟩))).map (fun t => (t.pos, t.sig, t.phase)) =
    some (⟨1, 0, 0⟩, 7, .plugi) := by decide

theorem test_plugi : (nextOf (exec .plugi (coreAt .plugi 7 ⟨1, 0, 0⟩))).map (fun t => (t.sig, t.phase)) = some (7, .r0f) := by
  decide

theorem test_r0f : (nextOf (exec .r0f (coreAt .r0f 7 ⟨1, 0, 0⟩))).map (fun t => (t.sig, t.phase)) = some (20, .r1f) := by
  decide

theorem test_r1f : (nextOf (exec .r1f (coreAt .r1f 20 ⟨1, 0, 0⟩))).map (fun t => (t.sig, t.phase)) = some (15, .r2f) := by
  decide

theorem test_r2f : (nextOf (exec .r2f (coreAt .r2f 15 ⟨1, 0, 0⟩))).map (fun t => (t.sig, t.phase)) = some (4, .refl) := by
  decide

theorem test_refl : (nextOf (exec .refl (coreAt .refl 4 ⟨1, 0, 0⟩))).map (fun t => (t.sig, t.phase)) = some (16, .r2b) := by
  decide

theorem test_r2b : (nextOf (exec .r2b (coreAt .r2b 16 ⟨1, 0, 0⟩))).map (fun t => (t.sig, t.phase)) = some (24, .r1b) := by
  decide

theorem test_r1b : (nextOf (exec .r1b (coreAt .r1b 24 ⟨1, 0, 0⟩))).map (fun t => (t.sig, t.phase)) = some (21, .r0b) := by
  decide

theorem test_r0b : (nextOf (exec .r0b (coreAt .r0b 21 ⟨1, 0, 0⟩))).map (fun t => (t.sig, t.phase)) = some (12, .plugo) := by
  decide

theorem test_plugo : (nextOf (exec .plugo (coreAt .plugo 12 ⟨1, 0, 0⟩))).map (fun t => (t.sig, t.phase)) = some (0, .emit) := by
  decide

theorem test_emit : (nextOf (exec .emit (coreAt .emit 0 ⟨1, 0, 0⟩))).map (fun t => (t.responses, t.phase)) =
    some ([0x41], .idle) := by decide

theorem test_emit_passthrough :
    (nextOf (exec .emit { coreAt .emit 0 ⟨1, 0, 0⟩ with pass := true, chr := 0xE9 })).map State.responses = some [0xE9] := by
  decide

theorem test_unused_phases_keep_the_architectural_state :
    (nextOf (exec .phaseUnused13 (coreAt .unused13 3 ⟨1, 2, 3⟩))).map State.arch = some ⟨⟨1, 2, 3⟩, false⟩ := by
  rcases unusedPhase_cases (coreAt .unused13 3 ⟨1, 2, 3⟩) with h | h <;>
    simp only [exec, execPhaseUnused13, h] <;> rfl

/-! ### One edge -/

theorem test_placed_command_is_the_next_edge :
    (nextOf (step (State.reset.withFetchWord 16 0x148))).map (fun t => (t.phase, t.chr, t.inputs)) =
      some (.classify, 0x48, []) := by decide

theorem test_placed_phase_is_the_next_edge :
    (nextOf (step (State.reset.withFetchWord 8 0xB))).map State.phase = some .emit := by decide

/-- V28, R251. -/
theorem test_reset_edge_in_flight :
    (nextOf (step { coreAt .r2f 15 ⟨1, 0, 0⟩ with flt := true, inputs := [Pins.reset] })).map
      (fun t => (t.arch, t.phase, t.responses)) = some (⟨⟨0, 0, 0⟩, false⟩, .idle, []) := by decide

/-- R251: the response of an `EMIT` cycle that a reset edge ends has been given. -/
theorem test_reset_edge_that_ends_emit :
    (nextOf (step { coreAt .emit 0 ⟨1, 0, 0⟩ with inputs := [Pins.reset] })).map (fun t => (t.phase, t.responses)) =
      some (.idle, [0x41]) := by decide

/-- R34: a command presented while the core is busy is not seen. -/
theorem test_command_while_busy_is_not_seen :
    (nextOf (step { coreAt .r1f 20 ⟨1, 0, 0⟩ with inputs := [Pins.present 0x300] })).map (fun t => (t.flt, t.sig, t.phase)) =
      some (false, 15, .r2f) := by decide

theorem test_ports :
    cmdReady State.reset = true ∧ busy (coreAt .emit 0 ⟨25, 0, 0⟩) = true ∧ rspValid (coreAt .emit 0 ⟨25, 0, 0⟩) = true ∧
    rspChar (coreAt .emit 25 ⟨25, 0, 0⟩) = 0x5A ∧ posPort (coreAt .emit 0 ⟨25, 0, 0⟩) 0 = 25#5 := by decide

/-! ### Witnesses: states and operands that meet the hypotheses of the statements -/

theorem elaborates_A : elaborate cfgA = .ok blockA := elaborate_cfg blockA

/-- ConstructedTables, RotorTables, Plugboard, Reflector, Orphan, FlatForm, TextForm, ConstructionGivesAGoodCore (the good clause);
Deciphering, from the reset state of the block. -/
theorem witness_valid_configuration :
    elaborate (cfgOfText textA) = .ok blockA ∧ check cfgA = none ∧ cfgA.plugPairs.length % 2 = 0 ∧
    (State.resetOf blockA).phase = .idle := ⟨elaborates_A, blockA.valid, by decide, rfl⟩

/-- ConstructionGivesAGoodCoreOrTheFault, the faulty clause. -/
theorem witness_invalid_configuration :
    check { cfgA with plugPairs := codesOfText "AA" } = some ⟨.plugSelfPair, .plugboard⟩ := by decide

/-- ValidityCheckReportsTheFirstFailingStep: step 5 (rotor 1, length) fails and the five before it pass. -/
theorem witness_first_failing_step :
    let cfg : Cfg := { cfgA with rotor1 := { cfgA.rotor1 with wiring := [] } }
    (validitySteps cfg)[5]? = some (([] : List Nat).length = 26, ⟨.keyLength, .rotor1⟩) ∧ ¬ (([] : List Nat).length = 26) ∧
    ∀ (j : Nat) (st : Prop × InvalidConfig), j < 5 → (validitySteps cfg)[j]? = some st → st.1 := by
  refine ⟨rfl, by decide, fun j st hj hst => ?_⟩
  match j, hj with
  | 0, _ => cases hst; show cfgA.rotor0.wiring.length = 26; decide
  | 1, _ => cases hst; show ∀ x ∈ cfgA.rotor0.wiring, x < 26; decide
  | 2, _ => cases hst; show ∀ x < 26, cfgA.rotor0.wiring.count x = 1; decide
  | 3, _ => cases hst; show cfgA.rotor0.notch < 26; decide
  | 4, _ => cases hst; show cfgA.rotor0.start < 26; decide

/-- PlugboardSwapsEachPair: the first and the last pair, and a letter in none. -/
theorem witness_pairs :
    cfgA.plugPairs[2 * 0]? = some (0 : Sym).val ∧ cfgA.plugPairs[2 * 0 + 1]? = some (12 : Sym).val ∧
    cfgA.plugPairs[2 * 5]? = some (22 : Sym).val ∧ cfgA.plugPairs[2 * 5 + 1]? = some (25 : Sym).val ∧
    (1 : Sym).val ∉ cfgA.plugPairs.take (2 * (cfgA.plugPairs.length / 2)) := by decide

/-- CharacterClassesFollowTheTable and ClassifySeparatesLetters: the boundary characters of each clause. -/
theorem witness_boundary_characters :
    (0x41 ≤ (0x41 : CharCode).toNat ∧ (0x5A : CharCode).toNat ≤ 0x5A) ∧
    (0x61 ≤ (0x61 : CharCode).toNat ∧ (0x7A : CharCode).toNat ≤ 0x7A) ∧
    (∀ c ∈ [(0x40 : CharCode), 0x5B, 0x60, 0x7B], ∀ x : Sym, c.toNat ≠ 0x41 + x.val ∧ c.toNat ≠ 0x61 + x.val) ∧
    (coreWithChar 0x5A).chr.toNat = 0x41 + (25 : Sym).val ∧ (coreWithChar 0x7A).chr.toNat = 0x61 + (25 : Sym).val := by
  decide

/-- RotationHasPeriod26. -/
theorem witness_two_rotors : (1 : RotorId) ≠ 0 := by decide

/-- AdvanceFollowsTheFourRows: the four combinations, with `notch[0]` = 16 and `notch[1]` = 4. -/
theorem witness_four_rows :
    romA.rotor0.notch = 16 ∧ romA.rotor1.notch = 4 ∧ (0 : Sym) ≠ 16 ∧ (0 : Sym) ≠ 4 := by decide

/-- MiddleRotorStepsTwiceRunning: the two advances of the double step of V42, V43. -/
theorem witness_double_step :
    (⟨21, 3, 0⟩ : Positions).p0 = romB.rotor0.notch ∧ (⟨21, 3, 0⟩ : Positions).p1 + 1 = romB.rotor1.notch ∧
    (⟨22, 4, 0⟩ : Positions).p1 = romB.rotor1.notch := by decide

/-- BothDirectionsUndoEachOther, CipherIsAnInvolutionWithoutFixedPoint, EncipheringTwiceGivesTheTextBack. -/
theorem witness_well_formed_rom : romC.WellFormed := by decide

/-- NopAndIdle, Rst, ReservedOpcode, IdleWorkingRegisters, ServingCommands. -/
theorem witness_idle : State.reset.phase = .idle := rfl

/-- IdleWorkingRegistersAreUnobservable: two idle cores that differ in the working registers alone, each after one edge. -/
theorem witness_two_idle_cores :
    ∃ t t', Reaches State.reset 1 t ∧
      Reaches { State.reset with chr := 1, sig := 2, pass := true, freeIdx := 3 } 1 t' := ⟨_, _, rfl, rfl⟩

/-- ServingCommandsFollowsTheCommandLevel. -/
theorem witness_commands : ∀ i ∈ [Instr.enc 0x48, .nop, .rst, .illegal], i.isCommand = true := by decide

/-- UnusedPhasesAreTreatedAsIdleOrIgnored. -/
theorem witness_unused : ∀ i ∈ [Instr.phaseUnused13, .phaseUnused14, .phaseUnused15], i.wellFormed = false := by decide

/-- MultiplexerFeedsEveryLookUpPhase: a look-up phase, and a phase that is none. -/
theorem witness_look_up_phase :
    (coreAt .r0f 7 ⟨1, 0, 0⟩).phase ∈ [Phase.plugi, .r0f, .r1f, .r2f, .refl, .r2b, .r1b, .r0b, .plugo] ∧
    State.reset.phase ∉ [Phase.plugi, .r0f, .r1f, .r2f, .refl, .r2b, .r1b, .r0b, .plugo] := by decide

/-- A core whose next edge accepts the command of a word, after which the host presents nothing. -/
def accepting (w : CommandWord) : State := { State.resetOf blockA with inputs := [Pins.present w] }

/-- StepRunsTheDecodedInstruction, both clauses; ResetEdgeAbandonsEverything, in `EMIT` and in another phase. -/
theorem witness_edges :
    ((accepting 0x148).pins.rst = false ∧ (accepting 0x148).phase = .idle ∧ (accepting 0x148).pins.cmdValid = true) ∧
    (State.reset.pins.rst = false ∧ ¬(State.reset.phase = .idle ∧ State.reset.pins.cmdValid = true)) ∧
    ({ coreAt .emit 0 ⟨1, 0, 0⟩ with inputs := [Pins.reset] } : State).pins.rst = true ∧
    ({ coreAt .r1f 0 ⟨1, 0, 0⟩ with inputs := [Pins.reset] } : State).pins.rst = true := by decide

/-- PortIsReadOnlyAtAnAcceptingEdge, both clauses; NopIsAnEmptyCycle. -/
theorem witness_ports_ignored :
    (cmdReady (coreAt .r1f 0 ⟨1, 0, 0⟩) = false ∧ (Pins.present 0x300).rst = Pins.quiet.rst) ∧
    (Pins.reset.rst = true ∧ Pins.quiet.rst = false ∧ Pins.quiet.cmdValid = false) := by decide

/-- ResetMayLastAnyNumberOfEdges, with two reset edges. -/
theorem witness_long_reset :
    ∃ rest, ({ coreAt .r1f 0 ⟨1, 0, 0⟩ with inputs := [Pins.reset, Pins.reset, Pins.present 0x148] } : State).inputs =
      List.replicate (1 + 1) Pins.reset ++ rest := ⟨[Pins.present 0x148], rfl⟩

/-- PositionsChangeOnlyByStepRstAndReset, FltIsStickyUntilReset, ResponsesAreTheValidCycles, TablesNeverChange: an edge
that resets, one in `STEP`, one that accepts `RST`, one that accepts the reserved opcode, one in `EMIT`, one that does
nothing. -/
theorem witness_steps :
    (∃ t, step { coreAt .emit 0 ⟨1, 0, 0⟩ with inputs := [Pins.reset] } = .next t) ∧
    (∃ t, step (coreAt .step 7 ⟨0, 0, 0⟩) = .next t) ∧
    (accepts (accepting 0x200) = true ∧ ∃ t, step (accepting 0x200) = .next t) ∧
    (accepts (accepting 0x300) = true ∧ ∃ t, step (accepting 0x300) = .next t) ∧
    (∃ t, step (coreAt .emit 0 ⟨1, 0, 0⟩) = .next t) ∧ (∃ t, step State.reset = .next t) :=
  ⟨⟨_, rfl⟩, ⟨_, rfl⟩, ⟨by decide, _, rfl⟩, ⟨by decide, _, rfl⟩, ⟨_, rfl⟩, ⟨_, rfl⟩⟩

/-- `CFG_A` in the `EMIT` cycle of `H` (V20's first character, whose answer is `A`). -/
def emitH : State := { coreAt .emit 0 ⟨1, 0, 0⟩ with chr := 0x48 }

/-- `CFG_A` in the `EMIT` cycle of a space. -/
def emitSpace : State := { coreAt .emit 0 ⟨1, 0, 0⟩ with chr := 0x20, pass := true }

/-- EveryEdgeKeepsTheInvariant and ValidResponseIsTheCipherOfTheCharacter: a letter's `EMIT` cycle (V27, cycle 12) and a
passthrough's. -/
theorem witness_invariant :
    emitH.Inv ∧ rspValid emitH = true ∧ symOfChar? emitH.chr = some 7 ∧ (∃ t, step emitH = .next t) ∧
    emitSpace.Inv ∧ rspValid emitSpace = true ∧ isLetter emitSpace.chr = false := by
  refine ⟨⟨test_built_rom_is_well_formed, rfl, ?_⟩, by decide, by decide, ⟨_, rfl⟩,
    ⟨test_built_rom_is_well_formed, rfl, ?_⟩, by decide, by decide⟩
  · show false = false ∧ expectedSig romA ⟨1, 0, 0⟩ 7 .emit = some 0
    exact ⟨rfl, by decide⟩
  · rfl

/-- MicroSequenceImplementsTheCommand and EncTakesItsCycles: each command, a letter and a passthrough. -/
theorem witness_accepted_commands :
    (∀ w ∈ [(0x000 : CommandWord), 0x148, 0x120, 0x200, 0x300], accepts (accepting w) = true) ∧
    decodeCommand (accepting 0x148).pins.word = .enc 0x48 ∧ isLetter 0x48 = true ∧
    decodeCommand (accepting 0x120).pins.word = .enc 0x20 ∧ isLetter 0x20 = false ∧
    NoResetFor 13 (accepting 0x148) ∧ NoResetFor 3 (accepting 0x120) ∧
    ∃ u, 0 < 1 ∧ 1 < edgesOf (.enc 0x48) ∧ Reaches (accepting 0x148) 1 u := by
  refine ⟨by decide, by decide, by decide, by decide, by decide, ?_, ?_, _, by decide, by decide, rfl⟩
  · simp [NoResetFor, accepting, Pins.present]
  · simp [NoResetFor, accepting, Pins.present]

/-- EveryCommandTerminates: from `CLASS`, with nothing presented. -/
theorem witness_terminates : (coreWithChar 0x48).phase.used = true ∧ NoResetFor 12 (coreWithChar 0x48) :=
  ⟨rfl, by simp [NoResetFor, coreWithChar, State.resetOf]⟩

/-- EncAtTheCommandLevel: a passthrough, and a letter of either case. -/
theorem witness_characters :
    isLetter 0x31 = false ∧ symOfChar? 0x68 = some 7 ∧ isLetter 0x68 = true ∧ upper 0x68 = 0x48 := by decide

/-- NopAndReservedOpcodeChangeNoResponse: two states that differ in `FLT` alone. -/
theorem witness_same_positions : (⟨⟨1, 2, 3⟩, true⟩ : Arch).pos = (⟨⟨1, 2, 3⟩, false⟩ : Arch).pos := rfl

end Sys2Proof.Tests
end

section
/-! Proofs of the scope family (spec/00_scope.md): what the symbol arithmetic of R11 gives as a number. -/

namespace Sys2Proof.Machine

theorem add26_val (a b : Sym) : (add26 a b).val = (a.val + b.val) % 26 := by
  rw [add26_eq_add, Fin.val_add]

/-- The difference is taken on the integers, so the remainder is the floor remainder of R9. -/
theorem sub26_val_intCast (a b : Sym) : ((sub26 a b).val : ℤ) = ((a.val : ℤ) - (b.val : ℤ)) % 26 := by
  rw [sub26_eq_sub]
  exact Fin.coe_int_sub_eq_mod a b

theorem inc26_val (a : Sym) : (inc26 a).val = if a.val < 25 then a.val + 1 else 0 := by
  have hsum : (inc26 a).val = (a.val + 1) % 26 := add26_val a 1
  rw [hsum]
  split
  · exact Nat.mod_eq_of_lt (by omega)
  · have hlast : a.val = 25 := by omega
    simp [hlast]

/-- Settles O4: the three operations are those of `Fin 26`, read as numbers. -/
theorem symbolArithmeticIsModulo26 : Obligations.SymbolArithmeticIsModulo26 := fun a b =>
  ⟨add26_val a b, sub26_val_intCast a b, inc26_val a⟩

end Sys2Proof.Machine
end

section
/-! Facts the state family rests on: the row of a command word and of a phase, and the order of the phases of a letter. -/

namespace Sys2Proof

/-- R76: an opcode has one of four values. -/
theorem opcode_cases (op : BitVec 2) : op = 0b00#2 ∨ op = 0b01#2 ∨ op = 0b10#2 ∨ op = 0b11#2 := by
  revert op
  decide

/-- R76: the row of a command word, by its opcode. -/
theorem decodeCommand_cases (w : CommandWord) :
    (w.op = 0b00#2 ∧ decodeCommand w = .nop) ∨ (w.op = 0b01#2 ∧ decodeCommand w = .enc w.char) ∨
      (w.op = 0b10#2 ∧ decodeCommand w = .rst) ∨ (w.op = 0b11#2 ∧ decodeCommand w = .illegal) := by
  rcases opcode_cases w.op with h | h | h | h <;> simp [decodeCommand, h]

theorem decodeCommand_eq_rst_iff (w : CommandWord) : decodeCommand w = .rst ↔ w.op = 0b10#2 := by
  rcases decodeCommand_cases w with ⟨hop, hi⟩ | ⟨hop, hi⟩ | ⟨hop, hi⟩ | ⟨hop, hi⟩ <;> simp [hop, hi]

theorem decodeCommand_eq_illegal_iff (w : CommandWord) : decodeCommand w = .illegal ↔ w.op = 0b11#2 := by
  rcases decodeCommand_cases w with ⟨hop, hi⟩ | ⟨hop, hi⟩ | ⟨hop, hi⟩ | ⟨hop, hi⟩ <;> simp [hop, hi]

theorem decodeCommand_isCommand (w : CommandWord) : (decodeCommand w).isCommand = true := by
  rcases decodeCommand_cases w with ⟨-, hi⟩ | ⟨-, hi⟩ | ⟨-, hi⟩ | ⟨-, hi⟩ <;> rw [hi] <;> rfl

@[simp] theorem decodePhase_code (p : Phase) : decodePhase p.code = p.instr := by
  rw [decodePhase, Phase.ofCode_code]

@[simp] theorem Phase.instr_isCommand (p : Phase) : p.instr.isCommand = false := by
  cases p <;> rfl

theorem Phase.instr_injective : Function.Injective Phase.instr := by
  intro p q h
  have hcode : ∀ r : Phase, encode r.instr = .phase r.code := fun r => by cases r <;> rfl
  have hpq : EncodedWord.phase p.code = .phase q.code := by rw [← hcode, ← hcode, h]
  rw [← Phase.ofCode_code p, EncodedWord.phase.inj hpq, Phase.ofCode_code]

/-- R200: the phase after each of the ten phases a letter passes between `CLASS` and `EMIT`; `none` in the other
phases. -/
def Phase.afterLetter : Phase → Option Phase
  | .step => some .plugi
  | .plugi => some .r0f
  | .r0f => some .r1f
  | .r1f => some .r2f
  | .r2f => some .refl
  | .refl => some .r2b
  | .r2b => some .r1b
  | .r1b => some .r0b
  | .r0b => some .plugo
  | .plugo => some .emit
  | .idle | .classify | .emit | .unused13 | .unused14 | .unused15 => none

/-- R80, R200: the kinds of phases: idle, classifying, a letter on its way, the response, and the unused codes. -/
theorem Phase.kind_cases (p : Phase) :
    p = .idle ∨ p = .classify ∨ (∃ next, p.afterLetter = some next) ∨ p = .emit ∨ p.used = false := by
  cases p <;> simp [Phase.afterLetter, Phase.used]

/-- After a letter's phase comes another one, or the response. -/
theorem Phase.afterLetter_next {p next : Phase} (h : p.afterLetter = some next) :
    (∃ next', next.afterLetter = some next') ∨ next = .emit := by
  cases p <;> cases h <;> simp [Phase.afterLetter]

theorem Phase.afterLetter_used {p next : Phase} (h : p.afterLetter = some next) : next.used = true := by
  cases p <;> cases h <;> rfl

end Sys2Proof
end

section
/-! What an edge does: which row it fetches, and what that row makes of each part of the state (R200). -/

namespace Sys2Proof.Machine

/-! ### The row an edge runs -/

theorem step_of_reset {s : State} (h : s.pins.rst = true) : step s = .next (resetEdge s.takeEdge) := if_pos h

theorem step_of_run {s : State} (h : s.pins.rst = false) : step s = exec (fetch s) s.takeEdge := if_neg (by simp [h])

/-- What an edge that answers `t` was: a reset edge, or an edge that ran the fetched row. -/
theorem step_next_cases {s t : State} (h : step s = .next t) :
    (s.pins.rst = true ∧ t = resetEdge s.takeEdge) ∨ (s.pins.rst = false ∧ exec (fetch s) s.takeEdge = .next t) := by
  rcases step_cases s with ⟨hrst, hs⟩ | ⟨hrst, hs⟩
  · rw [hs] at h
    cases h
    exact .inl ⟨hrst, rfl⟩
  · exact .inr ⟨hrst, hs ▸ h⟩

theorem fetch_of_command {s : State} (hp : s.phase = .idle) (hv : s.pins.cmdValid = true) :
    fetch s = decodeCommand s.pins.word := by
  simp [fetch, cmdReady, hp, hv]

theorem fetch_of_no_command {s : State} (h : ¬(s.phase = .idle ∧ s.pins.cmdValid = true)) : fetch s = s.phase.instr :=
  if_neg (by simpa [cmdReady] using h)

/-- A command's row is fetched exactly when that command is presented in `IDLE`. -/
theorem fetch_eq_command_iff {s : State} {i : Instr} (hi : i.isCommand = true) :
    fetch s = i ↔ (s.phase = .idle ∧ s.pins.cmdValid = true) ∧ decodeCommand s.pins.word = i := by
  by_cases h : s.phase = .idle ∧ s.pins.cmdValid = true
  · rw [fetch_of_command h.1 h.2, and_iff_right h]
  · rw [fetch_of_no_command h]
    constructor
    · rintro rfl
      simp at hi
    · exact fun hc => absurd hc.1 h

/-- The row of a phase other than `IDLE` is fetched exactly in that phase. -/
theorem fetch_eq_instr_iff {s : State} {p : Phase} (hp : p ≠ .idle) : fetch s = p.instr ↔ s.phase = p := by
  by_cases h : s.phase = .idle ∧ s.pins.cmdValid = true
  · rw [fetch_of_command h.1 h.2, h.1]
    refine ⟨fun hf => ?_, fun hf => absurd hf.symm hp⟩
    have hcommand := decodeCommand_isCommand s.pins.word
    simp [hf] at hcommand
  · rw [fetch_of_no_command h, Phase.instr_injective.eq_iff]

theorem accepts_iff {s : State} (h : s.pins.rst = false) :
    accepts s = true ↔ s.phase = .idle ∧ s.pins.cmdValid = true := by
  simp [accepts, cmdReady, h, and_comm]

@[simp] theorem Pins.op_word (p : Pins) : p.word.op = p.cmdOp := CommandWord.op_of _ _

theorem fetch_eq_rst_iff {s : State} (h : s.pins.rst = false) :
    fetch s = .rst ↔ accepts s = true ∧ s.pins.cmdOp = 0b10 := by
  rw [fetch_eq_command_iff rfl, accepts_iff h, decodeCommand_eq_rst_iff, Pins.op_word]
  rfl

theorem fetch_eq_illegal_iff {s : State} (h : s.pins.rst = false) :
    fetch s = .illegal ↔ accepts s = true ∧ s.pins.cmdOp = 0b11 := by
  rw [fetch_eq_command_iff rfl, accepts_iff h, decodeCommand_eq_illegal_iff, Pins.op_word]
  rfl

theorem fetch_eq_step_iff (s : State) : fetch s = .step ↔ s.phase = .step :=
  fetch_eq_instr_iff (p := .step) (by decide)

theorem fetch_eq_emit_iff (s : State) : fetch s = .emit ↔ s.phase = .emit :=
  fetch_eq_instr_iff (p := .emit) (by decide)

/-! ### What a reset edge and the rows write -/

@[simp] theorem resetEdge_block (s : State) : (resetEdge s).block = s.block := by
  rw [resetEdge_eq]

/-- R200, rows `CLASS`. -/
theorem exec_classify_cases {s t : State} (h : exec .classify s = .next t) :
    (∃ x, symOfChar? s.chr = some x ∧ t = ((s.setPass false).setSig x).setPhase .step) ∨
      (symOfChar? s.chr = none ∧ t = (s.setPass true).setPhase .emit) := by
  change execClassify s = .next t at h
  unfold execClassify at h
  split at h <;> cases h
  · exact .inl ⟨_, ‹_›, rfl⟩
  · exact .inr ⟨‹_›, rfl⟩

/-- R200: of the rows, `RST` and `STEP` alone write the positions, the reserved opcode alone writes `FLT`, and `EMIT`
alone gives a response. -/
theorem exec_observable {i : Instr} {s t : State} (h : exec i s = .next t) :
    t.pos = (if i = .rst then startPositions s.rom else if i = .step then advance s.rom s.pos else s.pos) ∧
      t.flt = (if i = .illegal then true else s.flt) ∧
      t.responses = s.responses ++ (if i = .emit then [responseChar s] else []) := by
  cases i
  case classify => rcases exec_classify_cases h with ⟨x, -, rfl⟩ | ⟨-, rfl⟩ <;> simp
  case phaseUnused13 | phaseUnused14 | phaseUnused15 =>
    cases h
    rcases unusedPhase_cases s with hu | hu <;> simp [hu]
  all_goals
    cases h
    simp [lookUp, raiseIllegalCommand, resetPositions_eq]

/-- R200: a command leaves the core idle, unless it is an `ENC`, whose character is then to be classified. -/
theorem exec_command_phase {i : Instr} {s t : State} (hi : i.isCommand = true) (h : exec i s = .next t) :
    t.phase = .idle ∨ ∃ c, i = .enc c ∧ t.phase = .classify ∧ t.chr = c := by
  cases i
  case enc c =>
    cases h
    exact .inr ⟨c, rfl, rfl, rfl⟩
  case nop | rst | illegal =>
    cases h
    exact .inl rfl
  all_goals cases hi

/-- R200, R201: in a letter's phase, `sig` takes what the multiplexer gives, `STEP` advances the positions, and nothing
else changes but the phase. -/
theorem exec_letterPhase {s : State} {next : Phase} (h : s.phase.afterLetter = some next) :
    exec s.phase.instr s =
      .next { s with
        pos := if s.phase = .step then advance s.rom s.pos else s.pos
        sig := signalMux s
        phase := next } := by
  obtain ⟨pos, flt, phase, chr, sig, pass, block, inputs, responses, freeIdx⟩ := s
  cases phase <;> cases h <;> rfl

end Sys2Proof.Machine
end

section
/-! O48: every edge keeps the invariant. The letter in flight is followed through the ten phases in one argument: the
multiplexer gives what R189 expects `sig` to hold in the next phase. -/

namespace Sys2Proof.Machine

/-- A letter is in flight, and `sig` holds what it has become. -/
def LetterInFlight (s : State) : Prop :=
  ∃ x, symOfChar? s.chr = some x ∧ s.pass = false ∧ expectedSig s.rom s.pos x s.phase = some s.sig

theorem LetterInFlight.inFlight {s : State} (h : LetterInFlight s) : InFlight s := by
  obtain ⟨x, hx, hpass, hsig⟩ := h
  cases hp : s.phase <;> simp only [InFlight, hp]
  case emit => simp [hx, hpass, ← hp, hsig]
  all_goals exact ⟨x, hx, hpass, hp ▸ hsig⟩

/-- In a letter's phase a letter is in flight. -/
theorem InFlight.letter {s : State} {next : Phase} (hf : InFlight s) (h : s.phase.afterLetter = some next) :
    LetterInFlight s := by
  cases hp : s.phase <;> rw [hp] at h <;> cases h
  all_goals simpa only [InFlight, LetterInFlight, hp] using hf

/-- R189, R200: what `sig` holds in the next phase is what the multiplexer makes of what it holds in this one, at the
positions of the next phase. -/
theorem expectedSig_next {s : State} {x : Sym} {next : Phase} (h : s.phase.afterLetter = some next)
    (hsig : expectedSig s.rom s.pos x s.phase = some s.sig) :
    expectedSig s.rom (if s.phase = .step then advance s.rom s.pos else s.pos) x next = some (signalMux s) := by
  obtain ⟨pos, flt, phase, chr, sig, pass, block, inputs, responses, freeIdx⟩ := s
  simp only [State.rom_mk] at hsig h ⊢
  cases phase <;> cases h <;> obtain rfl := Option.some.inj hsig <;> rfl

theorem State.Inv.used {s : State} (hinv : s.Inv) : s.phase.used = true := hinv.2.1

theorem State.Inv.inFlight {s : State} (hinv : s.Inv) : InFlight s := hinv.2.2

/-- The block is well formed after an edge if it was before, since no edge changes it. -/
theorem State.Inv.of_block {s t : State} (hinv : s.Inv) (hblock : t.block = s.block) (hused : t.phase.used = true)
    (hflight : InFlight t) : t.Inv := by
  obtain ⟨hrom, -, -⟩ := hinv
  rw [← State.rom_eq_of_block hblock] at hrom
  exact ⟨hrom, hused, hflight⟩

theorem State.Inv.of_idle {s t : State} (hinv : s.Inv) (hblock : t.block = s.block) (h : t.phase = .idle) : t.Inv :=
  hinv.of_block hblock (by rw [h]; rfl) (by simp [InFlight, h])

theorem State.Inv.of_classify {s t : State} (hinv : s.Inv) (hblock : t.block = s.block) (h : t.phase = .classify) :
    t.Inv :=
  hinv.of_block hblock (by rw [h]; rfl) (by simp [InFlight, h])

theorem command_keeps_inv {i : Instr} {s t : State} (hi : i.isCommand = true) (hinv : s.Inv)
    (h : exec i s = .next t) : t.Inv := by
  obtain ⟨hblock, -, -⟩ := exec_keeps_block h
  rcases exec_command_phase hi h with hp | ⟨c, -, hp, -⟩
  · exact hinv.of_idle hblock hp
  · exact hinv.of_classify hblock hp

theorem letterPhase_keeps_inv {s t : State} {next : Phase} (hn : s.phase.afterLetter = some next) (hinv : s.Inv)
    (h : exec s.phase.instr s = .next t) : t.Inv := by
  obtain ⟨x, hx, hpass, hsig⟩ := hinv.inFlight.letter hn
  obtain ⟨hblock, -, -⟩ := exec_keeps_block h
  have hnext := expectedSig_next hn hsig
  rw [← State.rom_eq_of_block hblock] at hnext
  rw [exec_letterPhase hn] at h
  obtain rfl := Host.Outcome.next.inj h
  exact hinv.of_block hblock (Phase.afterLetter_used hn) (LetterInFlight.inFlight ⟨x, hx, hpass, hnext⟩)

theorem phase_keeps_inv {s t : State} (hinv : s.Inv) (h : exec s.phase.instr s = .next t) : t.Inv := by
  rcases s.phase.kind_cases with hp | hp | ⟨next, hn⟩ | hp | hunused
  · rw [hp] at h
    cases h
    exact hinv.of_idle rfl rfl
  · rw [hp] at h
    rcases exec_classify_cases h with ⟨x, hx, rfl⟩ | ⟨hx, rfl⟩
    · exact hinv.of_block rfl rfl ⟨x, hx, rfl, rfl⟩
    · exact hinv.of_block rfl rfl (by simp [InFlight, hx])
  · exact letterPhase_keeps_inv hn hinv h
  · rw [hp] at h
    cases h
    exact hinv.of_idle rfl rfl
  · rw [hinv.used] at hunused
    cases hunused

/-- Settles O48: a reset edge leaves `IDLE`; any other edge runs a command, or the row of the phase. -/
theorem everyEdgeKeepsTheInvariant : Obligations.EveryEdgeKeepsTheInvariant := by
  intro s t hinv hstep
  have hinv' : s.takeEdge.Inv := hinv
  rcases step_next_cases hstep with ⟨-, rfl⟩ | ⟨-, h⟩
  · exact hinv.of_idle (resetEdge_block _) rfl
  · rcases fetch_cases s with ⟨-, -, hf⟩ | ⟨-, hf⟩ <;> rw [hf] at h
    · exact command_keeps_inv (decodeCommand_isCommand _) hinv' h
    · exact phase_keeps_inv hinv' h

end Sys2Proof.Machine
end

section
/-! One edge: which row it runs, and what it makes of the positions, of `FLT` and of the responses. -/

namespace Sys2Proof.Machine

/-- R34, R229: with `rst = 0`, a busy core runs its phase's row whatever is presented. -/
theorem fetch_of_busy {s : State} (h : cmdReady s = false) : fetch s = s.phase.instr := by
  simp [fetch, h]

theorem step_cons_of_reset {s : State} {p : Pins} {rest : List Pins} (h : p.rst = true) :
    step { s with inputs := p :: rest } =
      .next (resetEdge { s with inputs := rest, freeIdx := s.freeIdx + 1 }) :=
  step_of_reset (s := { s with inputs := p :: rest }) h

theorem step_cons_of_busy {s : State} {p : Pins} {rest : List Pins} (h : p.rst = false) (hbusy : cmdReady s = false) :
    step { s with inputs := p :: rest } =
      exec s.phase.instr { s with inputs := rest, freeIdx := s.freeIdx + 1 } := by
  have hfetch : fetch { s with inputs := p :: rest } = s.phase.instr := fetch_of_busy hbusy
  rw [step_of_run (s := { s with inputs := p :: rest }) h, hfetch]
  rfl

/-- Settles O38: a reset edge does not look at the command port, and neither does the fetch of a busy core. -/
theorem portIsReadOnlyAtAnAcceptingEdge : Obligations.PortIsReadOnlyAtAnAcceptingEdge := by
  intro s p q rest hpq hquiet
  cases hp : p.rst with
  | true => rw [step_cons_of_reset hp, step_cons_of_reset (hpq ▸ hp)]
  | false =>
    have hbusy : cmdReady s = false := hquiet.resolve_right (by simp [hp])
    rw [step_cons_of_busy hp hbusy, step_cons_of_busy (hpq ▸ hp) hbusy]

/-- Settles O35, by the two cases of the fetch. -/
theorem stepRunsTheDecodedInstruction : Obligations.StepRunsTheDecodedInstruction := by
  refine ⟨fun s => rfl, fun s hrst hp hv => ?_, fun s hrst h => ?_, fun s e => ?_⟩
  · rw [step_of_run hrst, fetch_of_command hp hv]
    rfl
  · rw [step_of_run hrst, fetch_of_no_command h, decodePhase_code]
  · cases e with
    | command w =>
      have hword : (s.placeWord (.command w)).pins.word = w := CommandWord.of_op_char w
      rw [step_of_run rfl, fetch_of_command rfl rfl, hword]
      rfl
    | phase c =>
      rw [step_of_run rfl, fetch_of_no_command (fun h => Bool.noConfusion h.2)]
      rfl

/-- Settles O40: the rows that write the positions are `RST` and `STEP`, and a core in `STEP` accepts no command. -/
theorem positionsChangeOnlyByStepRstAndReset : Obligations.PositionsChangeOnlyByStepRstAndReset := by
  intro s t hstep
  rcases step_next_cases hstep with ⟨hrst, rfl⟩ | ⟨hrst, h⟩
  · simp [hrst, resetEdge_eq]
  · obtain ⟨hpos, -, -⟩ := exec_observable h
    simp only [fetch_eq_rst_iff hrst, fetch_eq_step_iff, State.takeEdge_rom, State.takeEdge_pos] at hpos
    by_cases hp : s.phase = .step
    · have hbusy : ¬ accepts s = true := by simp [accepts_iff hrst, hp]
      simp [hpos, hrst, hp, hbusy]
    · simp [hpos, hrst, hp]

/-- Settles O41: the reserved opcode's row is the only one that writes `FLT`. -/
theorem fltIsStickyUntilReset : Obligations.FltIsStickyUntilReset := by
  intro s t hstep
  rcases step_next_cases hstep with ⟨hrst, rfl⟩ | ⟨hrst, h⟩
  · simp [hrst, resetEdge_eq]
  · obtain ⟨-, hflt, -⟩ := exec_observable h
    simpa [fetch_eq_illegal_iff hrst, hrst] using hflt

/-- R36: the response of a cycle, in terms of its phase. -/
theorem validResponse_eq (s : State) :
    (if rspValid s then [rspChar s] else []) = if s.phase = .emit then [responseChar s] else [] := by
  by_cases hp : s.phase = .emit <;> simp [rspChar, rspValid, hp]

/-- Settles O42: a reset edge and the row `EMIT` give the response of the cycle they end, and no other row gives one. -/
theorem responsesAreTheValidCycles : Obligations.ResponsesAreTheValidCycles := by
  intro s t hstep
  rw [validResponse_eq]
  rcases step_next_cases hstep with ⟨-, rfl⟩ | ⟨-, h⟩
  · rw [resetEdge_eq]
    rfl
  · obtain ⟨-, -, hresponses⟩ := exec_observable h
    simpa [fetch_eq_emit_iff] using hresponses

/-- No edge changes the block, and every edge uses up one sample and one free-value index. -/
theorem step_keeps_block {s t : State} (hstep : step s = .next t) :
    t.block = s.block ∧ t.inputs = s.inputs.tail ∧ t.freeIdx = s.freeIdx + 1 := by
  rcases step_next_cases hstep with ⟨-, rfl⟩ | ⟨-, h⟩
  · simp [resetEdge_eq]
  · exact exec_keeps_block h

end Sys2Proof.Machine
end

section
/-! The output ports, the reset state and the row `EMIT`. -/

namespace Sys2Proof.Machine

/-- Settles O32: the response is the character that R36 gives for `pass`, `chr` and `sig`. -/
theorem emitGivesOneResponse : Obligations.EmitGivesOneResponse := fun s => by
  have hchar : responseChar s = if s.pass then s.chr else BitVec.ofNat 8 (0x41 + s.sig.val) := responseChar_eq s
  rw [← hchar]
  rfl

/-- R22, R37: five wires carry a position. -/
@[simp] theorem posPort_toNat (s : State) (i : RotorId) : (posPort s i).toNat = (s.pos.get i).val := by
  have hlt := (s.pos.get i).isLt
  rw [posPort, BitVec.toNat_ofNat]
  exact Nat.mod_eq_of_lt (by omega)

theorem rspValid_iff (s : State) : rspValid s = true ↔ s.phase = .emit := decide_eq_true_iff

theorem cmdReady_iff (s : State) : cmdReady s = true ↔ s.phase = .idle := decide_eq_true_iff

theorem rspChar_of_valid {s : State} (h : rspValid s = true) : rspChar s = responseChar s := if_pos h

/-- Settles O45, port by port. -/
theorem portsShowTheState : Obligations.PortsShowTheState := by
  refine fun s => ⟨cmdReady_iff s, rfl, rspValid_iff s, fun hv => ?_, rfl, fun i => ⟨posPort_toNat s i, ?_⟩⟩
  · rw [rspChar_of_valid hv]
    exact responseChar_eq s
  · have hlt := (s.pos.get i).isLt
    rw [posPort_toNat]
    omega

/-- R40: the start positions, rotor by rotor. -/
theorem startPositions_get (rom : Rom) (i : RotorId) : (startPositions rom).get i = (rom.rotor i).start := by
  fin_cases i <;> rfl

/-- Settles O46: only the position ports need more than the reset state itself. -/
theorem resetStateIsTheSpecs : Obligations.ResetStateIsTheSpecs := by
  refine fun b => ⟨rfl, rfl, rfl, rfl, rfl, rfl, rfl, fun i => ?_⟩
  rw [posPort_toNat, State.resetOf_pos, startPositions_get]

end Sys2Proof.Machine
end

section
/-! O53: `chr`, `sig` and `pass` of an idle core cannot be observed. Two cores that look the same go on to look the same:
of the three registers they share exactly what the rest of the command in flight reads (R28). -/

namespace Sys2Proof.Machine

theorem reaches_zero {s t : State} (h : Reaches s 0 t) : t = s := by
  cases h
  rfl

/-- A run of `n + 1` edges is an edge and a run of `n`. -/
theorem reaches_succ {s t : State} {n : Nat} (h : Reaches s (n + 1) t) : ∃ u, step s = .next u ∧ Reaches u n t := by
  simp only [Reaches, Host.Core.run] at h
  split at h
  · exact ⟨_, ‹_›, h⟩
  · cases h
  · cases h

/-- R28: two cores in the same phase share what the command in flight has yet to read of `chr`, `sig` and `pass`. -/
inductive SameWorking (s s' : State) : Prop
  | idle (h : s.phase = .idle)
  | classify (h : s.phase = .classify) (hchr : s'.chr = s.chr)
  | letter {next : Phase} (h : s.phase.afterLetter = some next) (hpass : s.pass = false) (hpass' : s'.pass = false)
      (hsig : s'.sig = s.sig)
  | emit (h : s.phase = .emit) (hresponse : responseChar s' = responseChar s)

theorem SameWorking.of_idle {s s' : State} (h : s.phase = .idle) (h' : s'.phase = .idle) :
    s'.phase = s.phase ∧ SameWorking s s' :=
  ⟨h'.trans h.symm, .idle h⟩

/-- Two cores that look the same, have the same future inputs, and share what the command in flight has yet to read. -/
structure SameView (s s' : State) : Prop where
  pos : s'.pos = s.pos
  flt : s'.flt = s.flt
  phase : s'.phase = s.phase
  block : s'.block = s.block
  inputs : s'.inputs = s.inputs
  responses : s'.responses = s.responses
  working : SameWorking s s'

namespace SameView

variable {s s' t t' : State}

theorem rom (h : SameView s s') : s'.rom = s.rom := State.rom_eq_of_block h.block

theorem pins (h : SameView s s') : s'.pins = s.pins := by rw [State.pins, h.inputs, State.pins]

theorem accepts (h : SameView s s') : Machine.accepts s' = Machine.accepts s := by
  rw [Machine.accepts, Machine.accepts, cmdReady, cmdReady, h.pins, h.phase]

theorem fetch (h : SameView s s') : Machine.fetch s' = Machine.fetch s := by
  rw [Machine.fetch, Machine.fetch, cmdReady, cmdReady, h.pins, h.phase]

/-- The response of the cycle is the same, if there is one. -/
theorem validResponse (h : SameView s s') :
    (if rspValid s' then [rspChar s'] else []) = if rspValid s then [rspChar s] else [] := by
  rw [validResponse_eq, validResponse_eq, h.phase]
  rcases h.working with hp | ⟨hp, -⟩ | ⟨hn, -, -, -⟩ | ⟨-, hr⟩
  · simp [hp]
  · simp [hp]
  · rw [if_neg, if_neg] <;> rintro hp <;> simp [hp, Phase.afterLetter] at hn
  · rw [hr]

end SameView

/-- R200: two cores that look the same run the same row of a phase, and go on to share what is yet to be read. -/
theorem SameView.phase_working {s s' t t' : State} (h : SameView s s') (ht : exec s.phase.instr s = .next t)
    (ht' : exec s.phase.instr s' = .next t') : t'.phase = t.phase ∧ SameWorking t t' := by
  rcases h.working with hp | ⟨hp, hchr⟩ | ⟨hn, hpass, hpass', hsig⟩ | ⟨hp, -⟩
  · rw [hp] at ht ht'
    cases ht
    cases ht'
    exact SameWorking.of_idle rfl rfl
  · rw [hp] at ht ht'
    rcases exec_classify_cases ht with ⟨x, hx, rfl⟩ | ⟨hx, rfl⟩ <;>
      rcases exec_classify_cases ht' with ⟨x', hx', rfl⟩ | ⟨hx', rfl⟩ <;> rw [hchr, hx] at hx' <;> cases hx'
    · exact ⟨rfl, .letter rfl rfl rfl rfl⟩
    · exact ⟨rfl, .emit rfl hchr⟩
  · have hmux : signalMux s' = signalMux s := by simp [signalMux, h.phase, h.rom, h.pos, hsig]
    rw [exec_letterPhase hn] at ht
    rw [← h.phase, exec_letterPhase (h.phase ▸ hn)] at ht'
    cases ht
    cases ht'
    refine ⟨rfl, ?_⟩
    rcases Phase.afterLetter_next hn with ⟨next', hn'⟩ | rfl
    · exact .letter hn' hpass hpass' hmux
    · refine .emit rfl ?_
      rw [responseChar_eq, responseChar_eq]
      simp [hpass, hpass', hmux]
  · rw [hp] at ht ht'
    cases ht
    cases ht'
    exact SameWorking.of_idle rfl rfl

/-- After a command nothing is yet to be read but the character of an `ENC`, which came from the port. -/
theorem command_working {i : Instr} {s s' t t' : State} (hi : i.isCommand = true) (ht : exec i s = .next t)
    (ht' : exec i s' = .next t') : t'.phase = t.phase ∧ SameWorking t t' := by
  cases i
  case enc c =>
    cases ht
    cases ht'
    exact ⟨rfl, .classify rfl rfl⟩
  case nop | rst | illegal =>
    cases ht
    cases ht'
    exact SameWorking.of_idle rfl rfl
  all_goals cases hi

theorem SameWorking.takeEdge {s s' : State} : SameWorking s s' → SameWorking s.takeEdge s'.takeEdge
  | .idle h => .idle h
  | .classify h hchr => .classify h hchr
  | .letter h hpass hpass' hsig => .letter h hpass hpass' hsig
  | .emit h hresponse => .emit h hresponse

theorem SameView.takeEdge {s s' : State} (h : SameView s s') : SameView s.takeEdge s'.takeEdge :=
  { h with inputs := congrArg List.tail h.inputs, working := h.working.takeEdge }

theorem SameView.step_working {s s' t t' : State} (h : SameView s s') (ht : step s = .next t)
    (ht' : step s' = .next t') : t'.phase = t.phase ∧ SameWorking t t' := by
  cases hrst : s.pins.rst with
  | true =>
    rw [step_of_reset hrst] at ht
    rw [step_of_reset (h.pins ▸ hrst)] at ht'
    cases ht
    cases ht'
    exact SameWorking.of_idle rfl rfl
  | false =>
    rw [step_of_run hrst] at ht
    rw [step_of_run (h.pins ▸ hrst), h.fetch] at ht'
    rcases fetch_cases s with ⟨-, -, hf⟩ | ⟨-, hf⟩ <;> rw [hf] at ht ht'
    · exact command_working (decodeCommand_isCommand _) ht ht'
    · exact h.takeEdge.phase_working ht ht'

/-- Two cores that look the same still do after an edge. -/
theorem SameView.step {s s' t t' : State} (h : SameView s s') (ht : step s = .next t) (ht' : step s' = .next t') :
    SameView t t' := by
  obtain ⟨hblock, hinputs, -⟩ := step_keeps_block ht
  obtain ⟨hblock', hinputs', -⟩ := step_keeps_block ht'
  obtain ⟨hphase, hworking⟩ := h.step_working ht ht'
  refine ⟨?_, ?_, hphase, ?_, ?_, ?_, hworking⟩
  · rw [positionsChangeOnlyByStepRstAndReset s' t' ht', positionsChangeOnlyByStepRstAndReset s t ht, h.rom, h.pos,
      h.pins, h.phase, h.accepts]
  · rw [fltIsStickyUntilReset s' t' ht', fltIsStickyUntilReset s t ht, h.flt, h.pins, h.accepts]
  · rw [hblock', hblock, h.block]
  · rw [hinputs', hinputs, h.inputs]
  · rw [responsesAreTheValidCycles s' t' ht', responsesAreTheValidCycles s t ht, h.responses, h.validResponse]

/-- Two cores that look the same still do after any number of edges. -/
theorem SameView.reaches {n : Nat} {s s' t t' : State} (h : SameView s s') (ht : Reaches s n t)
    (ht' : Reaches s' n t') : SameView t t' := by
  induction n generalizing s s' with
  | zero => rwa [reaches_zero ht, reaches_zero ht']
  | succ n ih =>
    obtain ⟨u, hu, hut⟩ := reaches_succ ht
    obtain ⟨u', hu', hut'⟩ := reaches_succ ht'
    exact ih (h.step hu hu') hut hut'

/-- Settles O53: two idle cores share everything that is yet to be read, since nothing is. -/
theorem idleWorkingRegistersAreUnobservable : Obligations.IdleWorkingRegistersAreUnobservable := by
  rintro s s' n t t' hidle ⟨c, x, b, k, rfl⟩ ht ht'
  have hview : SameView s { s with chr := c, sig := x, pass := b, freeIdx := k } :=
    ⟨rfl, rfl, rfl, rfl, rfl, rfl, .idle hidle⟩
  have hafter := hview.reaches ht ht'
  exact ⟨hafter.pos, hafter.flt, hafter.phase, hafter.responses⟩

end Sys2Proof.Machine
end

section
/-! The tables and constants (R52): they are read from the block, and no edge writes the block. -/

namespace Sys2Proof.Machine

/-- R52: no edge changes a table, a notch or a start. -/
theorem step_keeps_rom {s t : State} (hstep : step s = .next t) : t.rom = s.rom :=
  have ⟨hblock, _, _⟩ := step_keeps_block hstep
  State.rom_eq_of_block hblock

/-- Settles O43: a table read depends on nothing but the tables. -/
theorem tablesNeverChange : Obligations.TablesNeverChange := by
  intro s t hstep
  obtain ⟨hblock, -, -⟩ := step_keeps_block hstep
  have hrom : t.rom = s.rom := step_keeps_rom hstep
  exact ⟨hblock, hrom, fun name x => by rw [hrom]⟩

end Sys2Proof.Machine
end

section
/-! Proofs of the encoding family (spec/30_encoding.md R75 to R80): words of the two formats and what the decoder makes of
them. -/

namespace Sys2Proof

/-- R76, R80: the encoding of every row decodes to the row. -/
theorem decodeWord_encode (i : Instr) : decodeWord (encode i) = i := by
  cases i with
  | enc c => exact Laws.RoundTrip.enc c
  | _ => rfl

/-- Log 15: an encoded word is read back from its bits, counted in whole bytes. -/
theorem encodedWordOfBits_value (e : EncodedWord) : encodedWordOfBits (formatWidth e.nbits) e.value = .ok e := by
  cases e with
  | command w =>
    have hw : w.toNat < 1024 := w.isLt
    simp [EncodedWord.nbits, EncodedWord.value, formatWidth, encodedWordOfBits, hw]
  | phase c =>
    have hc : c.toNat < 16 := c.isLt
    simp [EncodedWord.nbits, EncodedWord.value, formatWidth, encodedWordOfBits, hc]

theorem decodeTableWord_value (e : EncodedWord) : decodeTableWord e.nbits e.value = some (decodeWord e) := by
  rw [decodeTableWord, decodeBits, encodedWordOfBits_value]
  rfl

/-- Settles O1: the bits of an encoding are read back as the encoded word, and that word decodes to the instruction. -/
theorem decodeOfEncodeIsTheInstruction : Obligations.DecodeOfEncodeIsTheInstruction := fun i =>
  ⟨decodeWord_encode i, by rw [decodeTableWord_value, decodeWord_encode]⟩

/-- R75: `op` stands above the eight bits of `char`. -/
theorem CommandWord.toNat_eq (w : CommandWord) : w.toNat = 256 * w.op.toNat + w.char.toNat := by
  have hw : w.toNat < 1024 := w.isLt
  have hop : w.op.toNat = w.toNat / 256 % 4 := by
    simp [CommandWord.op, BitVec.extractLsb'_toNat, Nat.shiftRight_eq_div_pow]
  have hchar : w.char.toNat = w.toNat % 256 := by
    simp [CommandWord.char, BitVec.extractLsb'_toNat]
  omega

/-- R77, R89: encoding a decoded command word keeps `op`, and keeps `char` for `ENC` alone. -/
theorem encode_decodeCommand (w : CommandWord) :
    encode (decodeCommand w) = .command (CommandWord.of w.op (if w.op = 0b01#2 then w.char else 0)) := by
  rcases decodeCommand_cases w with ⟨hop, hi⟩ | ⟨hop, hi⟩ | ⟨hop, hi⟩ | ⟨hop, hi⟩ <;> rw [hi, hop] <;> rfl

/-- Settles O2: the two fields of the word are the witnesses. -/
theorem commandDecoderFollowsTheOpcodeMap : Obligations.CommandDecoderFollowsTheOpcodeMap := fun w =>
  ⟨w.op, w.char, (CommandWord.of_op_char w).symm, w.toNat_eq, rfl, encode_decodeCommand w⟩

/-- Settles O3: the words are the encodings of their rows, so they decode as O1 says. -/
theorem wordsWrittenOutDecode : Obligations.WordsWrittenOutDecode :=
  ⟨(decodeOfEncodeIsTheInstruction (.enc 0x48)).2, (decodeOfEncodeIsTheInstruction .rst).2,
    (decodeOfEncodeIsTheInstruction .nop).2, (decodeOfEncodeIsTheInstruction .illegal).2, by decide⟩

end Sys2Proof
end

section
/-! The character classes of R73: what each of the four conversions gives on a class. -/

namespace Sys2Proof.Machine

theorem upper_of_lowerCase {c : CharCode} (h : 0x61 ≤ c.toNat ∧ c.toNat ≤ 0x7A) :
    (upper c).toNat = c.toNat - 0x20 := by
  rw [upper, if_pos h, BitVec.toNat_sub_of_le (BitVec.le_def.2 (Nat.le_trans (by decide) h.1))]
  rfl

theorem upper_of_not_lowerCase {c : CharCode} (h : ¬(0x61 ≤ c.toNat ∧ c.toNat ≤ 0x7A)) : upper c = c := if_neg h

theorem isLetter_iff (c : CharCode) : isLetter c = true ↔ 0x41 ≤ (upper c).toNat ∧ (upper c).toNat ≤ 0x5A :=
  decide_eq_true_iff

theorem charOfSym_toNat (x : Sym) : (charOfSym x).toNat = 0x41 + x.val := by
  have hx := x.isLt
  rw [charOfSym, BitVec.toNat_ofNat]
  omega

/-- R73: a letter has the symbol that its upper-case form is the letter of. -/
theorem symOfChar?_of_isLetter {c : CharCode} (h : isLetter c = true) :
    ∃ x, symOfChar? c = some x ∧ x.val = (upper c).toNat - 0x41 ∧ charOfSym x = upper c := by
  obtain ⟨hlow, hhigh⟩ := (isLetter_iff c).1 h
  have hval : (Fin.ofNat 26 ((upper c).toNat - 0x41)).val = (upper c).toNat - 0x41 := Nat.mod_eq_of_lt (by omega)
  refine ⟨_, if_pos h, hval, BitVec.eq_of_toNat_eq ?_⟩
  rw [charOfSym_toNat, hval]
  omega

/-- Settles O5: a character is an upper-case letter, a lower-case letter, or neither, and only the second is moved. -/
theorem characterClassesFollowTheTable : Obligations.CharacterClassesFollowTheTable := by
  refine ⟨fun c => ⟨fun hupper => ?_, fun hlower => ?_, fun hnotUpper hnotLower => ?_⟩, charOfSym_toNat⟩
  · have hup : upper c = c := upper_of_not_lowerCase (by omega)
    have hletter : isLetter c = true := (isLetter_iff c).2 (by rwa [hup])
    obtain ⟨x, hx, hval, hchar⟩ := symOfChar?_of_isLetter hletter
    rw [hup] at hval hchar
    exact ⟨hup, hletter, x, hx, hval, hchar⟩
  · have hup : (upper c).toNat = c.toNat - 0x20 := upper_of_lowerCase hlower
    have hletter : isLetter c = true := (isLetter_iff c).2 (by omega)
    obtain ⟨x, hx, hval, hchar⟩ := symOfChar?_of_isLetter hletter
    exact ⟨hup, hletter, x, hx, by omega, hchar⟩
  · have hup : upper c = c := upper_of_not_lowerCase hnotLower
    have hletter : isLetter c = false := by
      rw [Bool.eq_false_iff, Ne, isLetter_iff, hup]
      exact hnotUpper
    exact ⟨hup, hletter, (symOfChar?_eq_none_iff c).2 hletter⟩

end Sys2Proof.Machine
end

section
/-! What the validity check of R221 says of a configuration it accepts, item by item. -/

namespace Sys2Proof.Machine

theorem inAlphabet_iff (codes : List Nat) : inAlphabet codes = true ↔ ∀ x ∈ codes, x < 26 := by
  simp [inAlphabet]

/-- R221: a configuration is accepted when every step passes, on each of the five items. -/
theorem check_eq_none_iff (cfg : Cfg) :
    check cfg = none ↔
      (∀ c ∈ rotorChecks .rotor0 cfg.rotor0, c.passes = true) ∧ (∀ c ∈ rotorChecks .rotor1 cfg.rotor1, c.passes = true) ∧
      (∀ c ∈ rotorChecks .rotor2 cfg.rotor2, c.passes = true) ∧
      (∀ c ∈ reflectorChecks (reflectorOf cfg), c.passes = true) ∧
      (∀ c ∈ plugboardChecks cfg.plugPairs, c.passes = true) := by
  rw [check, Option.map_eq_none_iff, List.find?_eq_none]
  simp only [checks, List.forall_mem_append, Bool.not_eq_true', Bool.not_eq_false, and_assoc]

/-- R221 steps 1 to 5. -/
theorem rotorChecks_pass_iff (item : Item) (r : RotorCfg) :
    (∀ c ∈ rotorChecks item r, c.passes = true) ↔
      r.wiring.length = 26 ∧ (∀ x ∈ r.wiring, x < 26) ∧ eachOnce r.wiring = true ∧ r.notch < 26 ∧ r.start < 26 := by
  simp [rotorChecks, inAlphabet_iff]

/-- R221 steps 6 to 10. -/
theorem reflectorChecks_pass_iff (codes : List Nat) :
    (∀ c ∈ reflectorChecks codes, c.passes = true) ↔
      codes.length = 26 ∧ (∀ x ∈ codes, x < 26) ∧ eachOnce codes = true ∧ noFixedPoint codes = true ∧
        involutive codes = true := by
  simp [reflectorChecks, inAlphabet_iff]

/-- R221 steps 11 to 13. -/
theorem plugboardChecks_pass_iff (codes : List Nat) :
    (∀ c ∈ plugboardChecks codes, c.passes = true) ↔
      (∀ x ∈ codes, x < 26) ∧ noSelfPair codes = true ∧ (codes.take (2 * (codes.length / 2))).Nodup := by
  simp [plugboardChecks, inAlphabet_iff, pairedDistinct]

/-- Settles O14: the string of R88 read letter by letter, and R221's steps run on it. -/
theorem defaultReflectorIsReflectorB : Obligations.DefaultReflectorIsReflectorB :=
  ⟨by decide, fun cfg h => by rw [reflectorOf, h]; rfl, by decide⟩

end Sys2Proof.Machine
end

section
/-! The string form (R85): a code that is a symbol comes from an upper-case letter. -/

namespace Sys2Proof.Machine

theorem codeOfLetter_lt_iff (c : Char) : codeOfLetter c < 26 ↔ 'A' ≤ c ∧ c ≤ 'Z' := by
  unfold codeOfLetter
  split
  case isTrue h =>
    have hZ : c.toNat ≤ 90 := h.2
    exact iff_of_true (show c.toNat - 65 < 26 by omega) h
  case isFalse h => exact iff_of_false (by decide) h

/-- The codes of a text are symbols exactly when its characters are upper-case letters. -/
theorem codesOfText_lt_iff (text : String) :
    (∀ x ∈ codesOfText text, x < 26) ↔ ∀ c ∈ text.toList, 'A' ≤ c ∧ c ≤ 'Z' := by
  simp only [codesOfText, List.forall_mem_map, codeOfLetter_lt_iff]

/-- R85, R221: an accepted rotor is written in upper-case letters. -/
theorem rotorText_upperCase {item : Item} {r : RotorText}
    (h : ∀ c ∈ rotorChecks item (rotorCfgOfText r), c.passes = true) :
    (∀ c ∈ r.wiring.toList, 'A' ≤ c ∧ c ≤ 'Z') ∧ ('A' ≤ r.notch ∧ r.notch ≤ 'Z') ∧ ('A' ≤ r.start ∧ r.start ≤ 'Z') := by
  obtain ⟨-, hwiring, -, hnotch, hstart⟩ := (rotorChecks_pass_iff item _).1 h
  exact ⟨(codesOfText_lt_iff _).1 hwiring, (codeOfLetter_lt_iff _).1 hnotch, (codeOfLetter_lt_iff _).1 hstart⟩

/-- Settles O16: each item of an accepted configuration has its codes in the alphabet. -/
theorem textFormTakesUpperCaseLettersOnly : Obligations.TextFormTakesUpperCaseLettersOnly := by
  intro t b hb c hc
  obtain ⟨hvalid, -⟩ := elaborate_ok hb
  obtain ⟨h0, h1, h2, hreflector, hplugboard⟩ := (check_eq_none_iff _).1 hvalid
  obtain ⟨hwiring0, hnotch0, hstart0⟩ := rotorText_upperCase h0
  obtain ⟨hwiring1, hnotch1, hstart1⟩ := rotorText_upperCase h1
  obtain ⟨hwiring2, hnotch2, hstart2⟩ := rotorText_upperCase h2
  obtain ⟨-, hrefl, -⟩ := (reflectorChecks_pass_iff _).1 hreflector
  obtain ⟨hplug, -⟩ := (plugboardChecks_pass_iff _).1 hplugboard
  rcases hc with hc | hc | hc | rfl | rfl | rfl | rfl | rfl | rfl | hc | ⟨r, hr, hc⟩
  · exact hwiring0 c hc
  · exact hwiring1 c hc
  · exact hwiring2 c hc
  · exact hnotch0
  · exact hnotch1
  · exact hnotch2
  · exact hstart0
  · exact hstart1
  · exact hstart2
  · exact (codesOfText_lt_iff _).1 hplug c hc
  · have hcodes : reflectorOf (cfgOfText t) = codesOfText r := by simp [reflectorOf, cfgOfText, hr]
    rw [hcodes] at hrefl
    exact (codesOfText_lt_iff r).1 hrefl c hc

end Sys2Proof.Machine
end

section
/-! The flat form (R86): a sequence of 5-bit codes is the digits, base 32, of its packed number. -/

namespace Sys2Proof.Machine

/-- Element `i` of a packed sequence is its digit `i`. -/
theorem packElements_digit {codes : List Nat} {i : Nat} (h : i < codes.length) :
    packElements codes / 32 ^ i % 32 = codes[i] % 32 := by
  induction codes generalizing i with
  | nil => cases h
  | cons x xs ih =>
    cases i with
    | zero => simp [packElements]
    | succ i =>
      have htail : packElements (x :: xs) / 32 = packElements xs := by
        rw [packElements]
        omega
      rw [Nat.pow_succ', ← Nat.div_div_eq_div_mul, htail, List.getElem_cons_succ]
      exact ih (Nat.lt_of_succ_lt_succ h)

/-- R86: an element within the width of a flat parameter is the digit of the number it was written from. -/
theorem flatElement_ofNat {n m i : Nat} (h : 5 * i + 5 ≤ n) : flatElement (BitVec.ofNat n m) i = m / 32 ^ i % 32 := by
  have hsplit : 2 ^ n = 2 ^ (5 * i) * 2 ^ (n - 5 * i) := by rw [← Nat.pow_add, Nat.add_sub_cancel' (by omega)]
  rw [flatElement, BitVec.extractLsb'_toNat, BitVec.toNat_ofNat, Nat.shiftRight_eq_div_pow, hsplit,
    Nat.mod_mul_right_div_self, Nat.mod_mod_of_dvd _ (Nat.pow_dvd_pow 2 (by omega)), Nat.pow_mul]

/-- R86: a sequence that fits in a flat parameter is read back from it. -/
theorem flatElements_packElements {n : Nat} {codes : List Nat} (hfit : 5 * codes.length ≤ n)
    (hcodes : ∀ x ∈ codes, x < 26) : flatElements (BitVec.ofNat n (packElements codes)) codes.length = codes := by
  refine List.ext_getElem (by simp [flatElements]) fun i _ hi => ?_
  have hlt : codes[i] < 26 := hcodes _ (List.getElem_mem hi)
  calc (flatElements (BitVec.ofNat n (packElements codes)) codes.length)[i]
      = flatElement (BitVec.ofNat n (packElements codes)) i := by simp [flatElements]
    _ = codes[i] % 32 := by rw [flatElement_ofNat (by omega), packElements_digit hi]
    _ = codes[i] := Nat.mod_eq_of_lt (by omega)

/-- R86: a key of 26 symbols is read back from its 130 bits. -/
theorem flatElements_key {codes : List Nat} (hlen : codes.length = 26) (hcodes : ∀ x ∈ codes, x < 26) :
    flatElements (BitVec.ofNat 130 (packElements codes)) 26 = codes := by
  have hread := flatElements_packElements (n := 130) (by omega) hcodes
  rwa [hlen] at hread

/-- R86: a code below 32 is read back from its five bits. -/
theorem flatCode_toNat {x : Nat} (h : x < 32) : (BitVec.ofNat 5 x).toNat = x := Nat.mod_eq_of_lt h

/-- R86: an accepted rotor is read back from its three flat parameters. -/
theorem rotorCfg_flat {item : Item} {r : RotorCfg} (h : ∀ c ∈ rotorChecks item r, c.passes = true) :
    RotorCfg.mk (flatElements (BitVec.ofNat 130 (packElements r.wiring)) 26) (BitVec.ofNat 5 r.notch).toNat
      (BitVec.ofNat 5 r.start).toNat = r := by
  obtain ⟨hlen, hwiring, -, hnotch, hstart⟩ := (rotorChecks_pass_iff item r).1 h
  rw [flatElements_key hlen hwiring, flatCode_toNat (by omega), flatCode_toNat (by omega)]

/-- R86, R140: an accepted pair list has at most 26 paired symbols, all distinct, and one unpaired symbol. -/
theorem plugPairs_length_le {codes : List Nat} (h : ∀ c ∈ plugboardChecks codes, c.passes = true) :
    codes.length ≤ 27 := by
  obtain ⟨hcodes, -, hdistinct⟩ := (plugboardChecks_pass_iff codes).1 h
  have hsubset : codes.take (2 * (codes.length / 2)) ⊆ List.range 26 := fun x hx =>
    List.mem_range.2 (hcodes x (List.mem_of_mem_take hx))
  have hpaired := (hdistinct.subperm hsubset).length_le
  rw [List.length_take, List.length_range] at hpaired
  omega

/-- Settles O15: every sequence of a valid configuration fits in its flat parameter, so each is read back. -/
theorem flatFormHoldsEveryValidConfiguration : Obligations.FlatFormHoldsEveryValidConfiguration := by
  intro cfg hvalid
  obtain ⟨h0, h1, h2, hreflector, hplugboard⟩ := (check_eq_none_iff cfg).1 hvalid
  obtain ⟨hreflLen, hrefl, -⟩ := (reflectorChecks_pass_iff _).1 hreflector
  obtain ⟨hplug, -⟩ := (plugboardChecks_pass_iff _).1 hplugboard
  have hlen : cfg.plugPairs.length ≤ 27 := plugPairs_length_le hplugboard
  have hplugLen : (BitVec.ofNat 5 cfg.plugPairs.length).toNat = cfg.plugPairs.length := flatCode_toNat (by omega)
  rw [cfgOfFlat]
  simp only [flatOfCfg, hplugLen, if_pos hlen, rotorCfg_flat h0, rotorCfg_flat h1, rotorCfg_flat h2,
    flatElements_key hreflLen hrefl, flatElements_packElements (n := 135) (by omega) hplug]

end Sys2Proof.Machine
end

section
/-! The permutation family (spec/40_permutation.md): a valid key is a permutation, and its forward and inverse tables hold
it in the two directions. -/

namespace Sys2Proof.Machine

/-! ### The table of a key -/

/-- R101, R150: entry `i` of the table of a key is the key's symbol `i`. -/
theorem getElem?_eq_forwardTable_get {codes : List Nat} (hlen : codes.length = 26) (hcodes : ∀ x ∈ codes, x < 26)
    (i : Sym) : codes[i.val]? = some ((forwardTable codes).get i).val := by
  have hi : i.val < codes.length := hlen.symm ▸ i.isLt
  rw [forwardTable_get, List.getD_eq_getElem _ _ hi, symOfCode_val (hcodes _ (List.getElem_mem hi)),
    List.getElem?_eq_getElem hi]

/-- R221 steps 3, 8: a key in which each symbol occurs once has every symbol. -/
theorem mem_of_eachOnce {codes : List Nat} (h : eachOnce codes = true) (x : Sym) : x.val ∈ codes := by
  have hcount : codes.count x.val = 1 := by simpa using List.all_eq_true.1 h x.val (List.mem_range.2 x.isLt)
  exact List.count_pos_iff.1 (by omega)

/-- R106: the 26 entries of a valid key's table take all 26 values, so none is taken twice. -/
theorem forwardTable_bijective {codes : List Nat} (hlen : codes.length = 26) (hcodes : ∀ x ∈ codes, x < 26)
    (honce : eachOnce codes = true) : Function.Bijective (forwardTable codes).get := by
  refine Finite.surjective_iff_bijective.1 fun x => ?_
  obtain ⟨i, hi⟩ := List.mem_iff_getElem?.1 (mem_of_eachOnce honce x)
  have hilt : i < 26 := hlen ▸ (List.getElem?_eq_some_iff.1 hi).1
  have hentry := getElem?_eq_forwardTable_get hlen hcodes ⟨i, hilt⟩
  exact ⟨⟨i, hilt⟩, Fin.ext (Option.some.inj (hentry.symm.trans hi))⟩

/-! ### A built rotor -/

/-- R101, R23: an accepted rotor's constants are the configured ones. -/
theorem buildRotor_holds {item : Item} {r : RotorCfg} (h : ∀ c ∈ rotorChecks item r, c.passes = true) :
    (∀ i : Sym, r.wiring[i.val]? = some ((buildRotor r).wiring.get i).val) ∧
      (buildRotor r).notch.val = r.notch ∧ (buildRotor r).start.val = r.start := by
  obtain ⟨hlen, hwiring, -, hnotch, hstart⟩ := (rotorChecks_pass_iff item r).1 h
  exact ⟨getElem?_eq_forwardTable_get hlen hwiring, symOfCode_val hnotch, symOfCode_val hstart⟩

/-- R106: the inverse table undoes the forward table, which takes every value, so the forward table undoes it too. -/
theorem buildRotor_wellFormed {item : Item} {r : RotorCfg} (h : ∀ c ∈ rotorChecks item r, c.passes = true) :
    (buildRotor r).WellFormed := by
  obtain ⟨hlen, hwiring, honce, -, -⟩ := (rotorChecks_pass_iff item r).1 h
  obtain ⟨hinjective, hsurjective⟩ := forwardTable_bijective hlen hwiring honce
  have hleft : Function.LeftInverse (buildRotor r).inverse.get (buildRotor r).wiring.get := inverseTable_get hinjective
  exact ⟨hleft, hleft.rightInverse_of_surjective hsurjective⟩

/-- R106: two tables that undo each other are bijections. -/
theorem wellFormed_bijective {r : Rotor} (h : r.WellFormed) :
    Function.Bijective r.wiring.get ∧ Function.Bijective r.inverse.get := by
  obtain ⟨hleft, hright⟩ := h
  exact ⟨Function.bijective_iff_has_inverse.2 ⟨_, hleft, hright⟩, Function.bijective_iff_has_inverse.2 ⟨_, hright, hleft⟩⟩

/-! ### The constructed block -/

/-- R220: a constructed block's constants are those built from the configuration, and the configuration was accepted. -/
theorem rom_of_elaborate {cfg : Cfg} {b : Block} (h : elaborate cfg = .ok b) :
    check cfg = none ∧ b.rom = buildRom cfg := by
  obtain ⟨hvalid, rfl⟩ := elaborate_ok h
  exact ⟨hvalid, rfl⟩

theorem buildRom_rotor_wellFormed {cfg : Cfg} (h : check cfg = none) (i : RotorId) :
    ((buildRom cfg).rotor i).WellFormed := by
  obtain ⟨h0, h1, h2, -, -⟩ := (check_eq_none_iff cfg).1 h
  fin_cases i
  · exact buildRotor_wellFormed h0
  · exact buildRotor_wellFormed h1
  · exact buildRotor_wellFormed h2

/-- Settles O8: each rotor holds its wiring, notch and start, and the reflector table its key. -/
theorem constructedTablesHoldTheKeys : Obligations.ConstructedTablesHoldTheKeys := by
  intro cfg b hb
  obtain ⟨hvalid, hrom⟩ := rom_of_elaborate hb
  obtain ⟨h0, h1, h2, hreflector, -⟩ := (check_eq_none_iff cfg).1 hvalid
  obtain ⟨hwiring0, hnotch0, hstart0⟩ := buildRotor_holds h0
  obtain ⟨hwiring1, hnotch1, hstart1⟩ := buildRotor_holds h1
  obtain ⟨hwiring2, hnotch2, hstart2⟩ := buildRotor_holds h2
  obtain ⟨hreflLen, hrefl, -⟩ := (reflectorChecks_pass_iff _).1 hreflector
  rw [hrom]
  exact ⟨fun i => ⟨hwiring0 i, hwiring1 i, hwiring2 i, getElem?_eq_forwardTable_get hreflLen hrefl i⟩,
    hnotch0, hstart0, hnotch1, hstart1, hnotch2, hstart2⟩

/-- Settles O9: every rotor of the block is well-formed, and so its tables are bijections. -/
theorem rotorTablesUndoEachOther : Obligations.RotorTablesUndoEachOther := by
  intro cfg b hb i
  obtain ⟨hvalid, hrom⟩ := rom_of_elaborate hb
  have hrotor : (b.rom.rotor i).WellFormed := hrom ▸ buildRom_rotor_wellFormed hvalid i
  exact ⟨hrotor.1, hrotor.2, wellFormed_bijective hrotor⟩

end Sys2Proof.Machine
end

section
/-! The rotor family (spec/41_rotor.md): a rotor's position counts modulo 26, its two substitutions undo each other, and
each rotor phase is one substitution. -/

namespace Sys2Proof.Machine

/-! ### The position counter -/

/-- R116. -/
theorem rotate_get_same (i : RotorId) (p : Positions) : (rotate i p).get i = p.get i + 1 := by
  rw [rotate, Positions.get_set_same, inc26_eq_add_one]

/-- R116: `pos[i]` is all that `rotate(i)` writes. -/
theorem rotate_get_other {i j : RotorId} (h : j ≠ i) (p : Positions) : (rotate i p).get j = p.get j :=
  Positions.get_set_other p _ h

/-- Each rotation adds one to the position, so `n` of them add `n`. -/
theorem iterate_rotate_get_same (i : RotorId) (p : Positions) (n : Nat) :
    ((rotate i)^[n] p).get i = p.get i + n • 1 := by
  have hsemiconj : Function.Semiconj (Positions.get · i) (rotate i) (· + 1) := rotate_get_same i
  calc ((rotate i)^[n] p).get i
      = (· + 1)^[n] (p.get i) := hsemiconj.iterate_right n p
    _ = p.get i + n • 1 := by rw [add_right_iterate]

theorem iterate_rotate_get_other {i j : RotorId} (h : j ≠ i) (p : Positions) (n : Nat) :
    ((rotate i)^[n] p).get j = p.get j := by
  have hsemiconj : Function.Semiconj (Positions.get · j) (rotate i) id := rotate_get_other h
  have hn := hsemiconj.iterate_right n p
  rwa [Function.iterate_id] at hn

open Fin.CommRing in
/-- R121: a multiple of one is 0 modulo 26 when 26 divides the number of times it is taken. -/
theorem nsmul_one_eq_zero_iff (n : Nat) : n • (1 : Sym) = 0 ↔ 26 ∣ n := by
  rw [nsmul_one, Fin.natCast_eq_zero]

/-- Settles O17: `n` rotations add `n` modulo 26 to the rotor's position, and nothing to another's. -/
theorem rotationHasPeriod26 : Obligations.RotationHasPeriod26 := by
  refine fun i j p n => ⟨?_, fun hj => iterate_rotate_get_other hj p n⟩
  rw [iterate_rotate_get_same, add_eq_left, nsmul_one_eq_zero_iff]

/-! ### The substitutions and the passes as permutations -/

/-- R122: the backward substitution reads the inverse table where the forward one read the wiring, at the entry the
forward one gave. -/
theorem backwardSubstitute_forwardSubstitute {rom : Rom} (h : rom.WellFormed) (p : Positions) (i : RotorId) (x : Sym) :
    backwardSubstitute rom p i (forwardSubstitute rom p i x) = x := by
  rw [forwardSubstitute_eq, backwardSubstitute_eq, sub_add_cancel, (rotor_wellFormed h i).1, add_sub_cancel_right]

/-- R122, the other order. -/
theorem forwardSubstitute_backwardSubstitute {rom : Rom} (h : rom.WellFormed) (p : Positions) (i : RotorId) (x : Sym) :
    forwardSubstitute rom p i (backwardSubstitute rom p i x) = x := by
  rw [backwardSubstitute_eq, forwardSubstitute_eq, sub_add_cancel, (rotor_wellFormed h i).2, add_sub_cancel_right]

/-- R122: a rotor of a well-formed block, at fixed positions, as a permutation of the symbols. -/
def rotorPerm {rom : Rom} (h : rom.WellFormed) (p : Positions) (i : RotorId) : Equiv.Perm Sym where
  toFun := forwardSubstitute rom p i
  invFun := backwardSubstitute rom p i
  left_inv := backwardSubstitute_forwardSubstitute h p i
  right_inv := forwardSubstitute_backwardSubstitute h p i

@[simp] theorem coe_rotorPerm {rom : Rom} (h : rom.WellFormed) (p : Positions) (i : RotorId) :
    ⇑(rotorPerm h p i) = forwardSubstitute rom p i := rfl

@[simp] theorem coe_rotorPerm_symm {rom : Rom} (h : rom.WellFormed) (p : Positions) (i : RotorId) :
    ⇑(rotorPerm h p i).symm = backwardSubstitute rom p i := rfl

/-- R170, R172: the stack of the three rotors, entered at rotor 0, as a permutation of the symbols. -/
def stackPerm {rom : Rom} (h : rom.WellFormed) (p : Positions) : Equiv.Perm Sym :=
  (rotorPerm h p 0).trans ((rotorPerm h p 1).trans (rotorPerm h p 2))

@[simp] theorem coe_stackPerm {rom : Rom} (h : rom.WellFormed) (p : Positions) :
    ⇑(stackPerm h p) = forwardPass rom p := rfl

/-- R171: the backward pass runs the stack against its order. -/
@[simp] theorem coe_stackPerm_symm {rom : Rom} (h : rom.WellFormed) (p : Positions) :
    ⇑(stackPerm h p).symm = backwardPass rom p := rfl

theorem backwardPass_forwardPass {rom : Rom} (h : rom.WellFormed) (p : Positions) (x : Sym) :
    backwardPass rom p (forwardPass rom p x) = x := (stackPerm h p).symm_apply_apply x

theorem forwardPass_backwardPass {rom : Rom} (h : rom.WellFormed) (p : Positions) (x : Sym) :
    forwardPass rom p (backwardPass rom p x) = x := (stackPerm h p).apply_symm_apply x

/-- Settles O18: the substitutions of each rotor are a permutation and its inverse, and so are the two passes. -/
theorem bothDirectionsUndoEachOther : Obligations.BothDirectionsUndoEachOther := fun _ p h =>
  ⟨fun i x => ⟨backwardSubstitute_forwardSubstitute h p i x, forwardSubstitute_backwardSubstitute h p i x⟩,
    fun i => ⟨(rotorPerm h p i).bijective, (rotorPerm h p i).symm.bijective⟩,
    fun x => ⟨backwardPass_forwardPass h p x, forwardPass_backwardPass h p x⟩,
    (stackPerm h p).bijective, (stackPerm h p).symm.bijective⟩

/-! ### The rotor phases -/

/-- R118, R200. -/
theorem lookUp_forwardSubstitute (s : State) (i : RotorId) (next : Phase) :
    lookUp (forwardSubstitute s.rom s.pos i) next s =
      { s with sig := (s.rom.rotor i).wiring.get (s.sig + s.pos.get i) - s.pos.get i, phase := next } := by
  rw [lookUp_eq, forwardSubstitute_eq]

/-- R119, R200. -/
theorem lookUp_backwardSubstitute (s : State) (i : RotorId) (next : Phase) :
    lookUp (backwardSubstitute s.rom s.pos i) next s =
      { s with sig := (s.rom.rotor i).inverse.get (s.sig + s.pos.get i) - s.pos.get i, phase := next } := by
  rw [lookUp_eq, backwardSubstitute_eq]

/-- Settles O30: each forward phase is one look-up in its own rotor. -/
theorem forwardPhasesSubstitute : Obligations.ForwardPhasesSubstitute := fun s =>
  ⟨congrArg Host.Outcome.next (lookUp_forwardSubstitute s 0 .r1f),
    congrArg Host.Outcome.next (lookUp_forwardSubstitute s 1 .r2f),
    congrArg Host.Outcome.next (lookUp_forwardSubstitute s 2 .refl)⟩

/-- Settles O31: each backward phase is one look-up in its own rotor. -/
theorem backwardPhasesSubstitute : Obligations.BackwardPhasesSubstitute := fun s =>
  ⟨congrArg Host.Outcome.next (lookUp_backwardSubstitute s 2 .r1b),
    congrArg Host.Outcome.next (lookUp_backwardSubstitute s 1 .r0b),
    congrArg Host.Outcome.next (lookUp_backwardSubstitute s 0 .plugo)⟩

end Sys2Proof.Machine
end

section
/-! The plugboard family (spec/42_plugboard.md): the pairs of a valid list are disjoint, so each is a swap that no other
pair undoes, and a trailing unpaired letter is in none of them. -/

namespace Sys2Proof.Machine

/-! ### The pairs of a list -/

/-- R137: the letters `s[0..2m-1]`, read off the pairs. -/
def pairedCodes (ps : List (Nat × Nat)) : List Nat := ps.flatMap fun p => [p.1, p.2]

@[simp] theorem pairedCodes_cons (p : Nat × Nat) (ps : List (Nat × Nat)) :
    pairedCodes (p :: ps) = p.1 :: p.2 :: pairedCodes ps := rfl

theorem mem_pairedCodes {c : Nat} {ps : List (Nat × Nat)} : c ∈ pairedCodes ps ↔ ∃ p ∈ ps, c = p.1 ∨ c = p.2 := by
  simp [pairedCodes]

theorem pairedCodes_pairsOf (codes : List Nat) : pairedCodes (pairsOf codes) = codes.take (2 * (codes.length / 2)) := by
  induction codes using pairsOf.induct with
  | case1 a b rest ih =>
    have hlen : 2 * ((a :: b :: rest).length / 2) = 2 * (rest.length / 2) + 2 := by
      simp only [List.length_cons]
      omega
    rw [hlen, pairsOf, pairedCodes_cons, ih, List.take_succ_cons, List.take_succ_cons]
  | case2 => simp [pairsOf, pairedCodes]
  | case3 => rfl

/-- R136: pair `k` is `(s[2k], s[2k+1])`. -/
theorem mem_pairsOf {codes : List Nat} {k a b : Nat} (ha : codes[2 * k]? = some a) (hb : codes[2 * k + 1]? = some b) :
    (a, b) ∈ pairsOf codes := by
  induction codes using pairsOf.induct generalizing k with
  | case1 a' b' rest ih =>
    cases k with
    | zero =>
      obtain rfl : a' = a := by simpa using ha
      obtain rfl : b' = b := by simpa using hb
      exact List.mem_cons_self
    | succ k => exact List.mem_cons_of_mem _ (ih (k := k) ha hb)
  | case2 => simp at hb
  | case3 => simp at ha

/-- R140: a letter after an even number of letters is in no pair. -/
theorem pairsOf_append_orphan {codes : List Nat} (heven : codes.length % 2 = 0) (c : Nat) :
    pairsOf (codes ++ [c]) = pairsOf codes := by
  induction codes using pairsOf.induct with
  | case1 a b rest ih =>
    have hrest : rest.length % 2 = 0 := by
      simp only [List.length_cons] at heven
      omega
    rw [List.cons_append, List.cons_append, pairsOf, pairsOf, ih hrest]
  | case2 => simp at heven
  | case3 => rfl

/-! ### The table of a list of disjoint pairs -/

theorem eq_symOfCode_iff {n : Nat} (h : n < 26) (x : Sym) : x = symOfCode n ↔ x.val = n := by
  rw [Fin.ext_iff, symOfCode_val h]

/-- R136: plugging pairs in leaves the entries of all other letters. -/
theorem foldl_plugIn_get_of_unpaired {ps : List (Nat × Nat)} (hps : ∀ c ∈ pairedCodes ps, c < 26) {x : Sym}
    (hx : x.val ∉ pairedCodes ps) (t : Table) : (ps.foldl plugIn t).get x = t.get x := by
  induction ps generalizing t with
  | nil => rfl
  | cons p ps ih =>
    rw [pairedCodes_cons, List.forall_mem_cons, List.forall_mem_cons] at hps
    simp only [pairedCodes_cons, List.mem_cons, not_or] at hx
    obtain ⟨h1, h2, hps⟩ := hps
    obtain ⟨hx1, hx2, hx⟩ := hx
    rw [List.foldl_cons, ih hps hx, plugIn_get, if_neg (mt (eq_symOfCode_iff h2 x).1 hx2),
      if_neg (mt (eq_symOfCode_iff h1 x).1 hx1)]

theorem plugIn_get_left (t : Table) (p : Nat × Nat) : (plugIn t p).get (symOfCode p.1) = symOfCode p.2 := by
  rw [plugIn_get, if_pos rfl]
  split
  · assumption
  · rfl

theorem plugIn_get_right (t : Table) (p : Nat × Nat) : (plugIn t p).get (symOfCode p.2) = symOfCode p.1 := by
  rw [plugIn_get, if_pos rfl]

/-- R136: a pair that is plugged in is not undone by the pairs after it, as these have other letters. -/
theorem foldl_plugIn_get_of_mem {ps : List (Nat × Nat)} (hps : ∀ c ∈ pairedCodes ps, c < 26)
    (hdistinct : (pairedCodes ps).Nodup) {p : Nat × Nat} (hp : p ∈ ps) (t : Table) :
    (ps.foldl plugIn t).get (symOfCode p.1) = symOfCode p.2 ∧
      (ps.foldl plugIn t).get (symOfCode p.2) = symOfCode p.1 := by
  induction ps generalizing t with
  | nil => cases hp
  | cons q ps ih =>
    rw [pairedCodes_cons, List.forall_mem_cons, List.forall_mem_cons] at hps
    simp only [pairedCodes_cons, List.nodup_cons, List.mem_cons, not_or] at hdistinct
    obtain ⟨h1, h2, hps⟩ := hps
    obtain ⟨⟨-, hnot1⟩, hnot2, hdistinct⟩ := hdistinct
    rw [List.foldl_cons]
    rcases List.mem_cons.1 hp with rfl | hp
    · rw [foldl_plugIn_get_of_unpaired hps (by rwa [symOfCode_val h1]),
        foldl_plugIn_get_of_unpaired hps (by rwa [symOfCode_val h2])]
      exact ⟨plugIn_get_left t p, plugIn_get_right t p⟩
    · exact ih hps hdistinct hp _

/-! ### The table of an accepted list -/

/-- R137: the letters of the pairs of an accepted list are in the alphabet and distinct. -/
theorem pairedCodes_of_accepted {codes : List Nat} (h : ∀ c ∈ plugboardChecks codes, c.passes = true) :
    (∀ c ∈ pairedCodes (pairsOf codes), c < 26) ∧ (pairedCodes (pairsOf codes)).Nodup := by
  obtain ⟨hcodes, -, hdistinct⟩ := (plugboardChecks_pass_iff codes).1 h
  rw [pairedCodes_pairsOf]
  exact ⟨fun c hc => hcodes c (List.mem_of_mem_take hc), hdistinct⟩

theorem plugTable_get_of_unpaired {codes : List Nat} (h : ∀ c ∈ plugboardChecks codes, c.passes = true) {x : Sym}
    (hx : x.val ∉ pairedCodes (pairsOf codes)) : (plugTable codes).get x = x := by
  rw [plugTable, foldl_plugIn_get_of_unpaired (pairedCodes_of_accepted h).1 hx, identityTable_get]

theorem plugTable_get_of_mem {codes : List Nat} (h : ∀ c ∈ plugboardChecks codes, c.passes = true) {p : Nat × Nat}
    (hp : p ∈ pairsOf codes) :
    (plugTable codes).get (symOfCode p.1) = symOfCode p.2 ∧ (plugTable codes).get (symOfCode p.2) = symOfCode p.1 :=
  have ⟨hcodes, hdistinct⟩ := pairedCodes_of_accepted h
  foldl_plugIn_get_of_mem hcodes hdistinct hp identityTable

/-- R139: a letter is either fixed or swapped with its partner. -/
theorem plugTable_selfInverse {codes : List Nat} (h : ∀ c ∈ plugboardChecks codes, c.passes = true) :
    (plugTable codes).SelfInverse := by
  intro x
  by_cases hx : x.val ∈ pairedCodes (pairsOf codes)
  · obtain ⟨p, hp, hxp⟩ := mem_pairedCodes.1 hx
    obtain ⟨hleft, hright⟩ := plugTable_get_of_mem h hp
    rw [← symOfCode_self x]
    rcases hxp with hxp | hxp
    · rw [hxp, hleft, hright]
    · rw [hxp, hright, hleft]
  · rw [plugTable_get_of_unpaired h hx, plugTable_get_of_unpaired h hx]

/-- R140: a trailing unpaired letter is accepted, whichever letter it is. -/
theorem plugboardChecks_append_orphan {codes : List Nat} (heven : codes.length % 2 = 0)
    (h : ∀ c ∈ plugboardChecks codes, c.passes = true) (x : Sym) :
    ∀ c ∈ plugboardChecks (codes ++ [x.val]), c.passes = true := by
  rw [plugboardChecks_pass_iff, ← pairedCodes_pairsOf, noSelfPair] at h ⊢
  obtain ⟨hcodes, hpairs⟩ := h
  rw [pairsOf_append_orphan heven]
  exact ⟨List.forall_mem_append.2 ⟨hcodes, List.forall_mem_singleton.2 x.isLt⟩, hpairs⟩

/-! ### The constructed block -/

/-- R220: a constructed block's plugboard is the table of its pair list, which was accepted. -/
theorem plug_of_elaborate {cfg : Cfg} {b : Block} (hb : elaborate cfg = .ok b) :
    (∀ c ∈ plugboardChecks cfg.plugPairs, c.passes = true) ∧ b.rom.plug = plugTable cfg.plugPairs := by
  obtain ⟨hvalid, hrom⟩ := rom_of_elaborate hb
  obtain ⟨-, -, -, -, hplugboard⟩ := (check_eq_none_iff cfg).1 hvalid
  exact ⟨hplugboard, congrArg Rom.plug hrom⟩

/-- Settles O10: a table that is its own inverse is a bijection. -/
theorem plugboardIsSelfInverse : Obligations.PlugboardIsSelfInverse := by
  intro cfg b hb
  obtain ⟨hplugboard, hplug⟩ := plug_of_elaborate hb
  have hself : b.rom.plug.SelfInverse := hplug ▸ plugTable_selfInverse hplugboard
  exact ⟨Function.Involutive.bijective hself, fun x => by rw [substitute_eq, substitute_eq, hself x]⟩

/-- Settles O12: a letter of the list is in one pair, which swaps it, and a letter in none keeps its identity entry. -/
theorem plugboardSwapsEachPair : Obligations.PlugboardSwapsEachPair := by
  intro cfg b hb
  obtain ⟨hplugboard, hplug⟩ := plug_of_elaborate hb
  rw [hplug]
  refine ⟨fun k x y hx hy => ?_, fun x hx => ?_⟩
  · simpa using plugTable_get_of_mem hplugboard (mem_pairsOf hx hy)
  · exact plugTable_get_of_unpaired hplugboard (by rwa [pairedCodes_pairsOf])

/-- R140: a block's tables and constants do not depend on a trailing unpaired letter. -/
theorem buildRom_append_orphan {cfg : Cfg} (heven : cfg.plugPairs.length % 2 = 0) (c : Nat) :
    buildRom { cfg with plugPairs := cfg.plugPairs ++ [c] } = buildRom cfg := by
  simp only [buildRom, plugTable, pairsOf_append_orphan heven, reflectorOf]

/-- Settles O13: the longer list has the same pairs, so it is accepted and builds the same table. -/
theorem orphanLetterHasNoEffect : Obligations.OrphanLetterHasNoEffect := by
  intro cfg b x heven hb
  obtain ⟨hvalid, hrom⟩ := rom_of_elaborate hb
  obtain ⟨h0, h1, h2, hreflector, hplugboard⟩ := (check_eq_none_iff cfg).1 hvalid
  have hvalid' : check { cfg with plugPairs := cfg.plugPairs ++ [x.val] } = none :=
    (check_eq_none_iff _).2 ⟨h0, h1, h2, hreflector, plugboardChecks_append_orphan heven hplugboard x⟩
  exact ⟨_, elaborate_of_valid hvalid', (buildRom_append_orphan heven x.val).trans hrom.symm⟩

/-! ### The plugboard and reflector phases -/

/-- R138, R200. -/
theorem lookUp_substitute (s : State) (next : Phase) :
    lookUp (substitute s.rom) next s = { s with sig := s.rom.plug.get s.sig, phase := next } := by
  rw [lookUp_eq, substitute_eq]

/-- R152, R200. -/
theorem lookUp_reflect (s : State) (next : Phase) :
    lookUp (reflect s.rom) next s = { s with sig := s.rom.refl.get s.sig, phase := next } := by
  rw [lookUp_eq, reflect_eq]

/-- Settles O29: each of the three phases is one look-up. -/
theorem plugboardAndReflectorPhasesLookUp : Obligations.PlugboardAndReflectorPhasesLookUp := fun s =>
  ⟨congrArg Host.Outcome.next (lookUp_substitute s .r0f), congrArg Host.Outcome.next (lookUp_reflect s .r2b),
    congrArg Host.Outcome.next (lookUp_substitute s .emit)⟩

end Sys2Proof.Machine
end

section
/-! The reflector family (spec/43_reflector.md): the two conditions that R221 checks on the reflector's key hold of the
table built from it. -/

namespace Sys2Proof.Machine

/-! ### The checks on a key, read on its table -/

/-- R150, in the form in which R221 steps 9 and 10 read the key. -/
theorem getD_eq_forwardTable_get {codes : List Nat} (hlen : codes.length = 26) (hcodes : ∀ x ∈ codes, x < 26)
    (i : Sym) : codes.getD i.val 26 = ((forwardTable codes).get i).val := by
  rw [List.getD_eq_getElem?_getD, getElem?_eq_forwardTable_get hlen hcodes i, Option.getD_some]

/-- R151, R221 step 9. -/
theorem forwardTable_noFixedPoint {codes : List Nat} (hlen : codes.length = 26) (hcodes : ∀ x ∈ codes, x < 26)
    (h : noFixedPoint codes = true) : (forwardTable codes).NoFixedPoint := by
  intro x hfixed
  have hne : codes.getD x.val 26 ≠ x.val := bne_iff_ne.1 (List.all_eq_true.1 h x.val (List.mem_range.2 x.isLt))
  rw [getD_eq_forwardTable_get hlen hcodes, hfixed] at hne
  exact hne rfl

/-- R151, R221 step 10. -/
theorem forwardTable_selfInverse {codes : List Nat} (hlen : codes.length = 26) (hcodes : ∀ x ∈ codes, x < 26)
    (h : involutive codes = true) : (forwardTable codes).SelfInverse := by
  intro x
  have hback : codes.getD (codes.getD x.val 26) 26 = x.val :=
    beq_iff_eq.1 (List.all_eq_true.1 h x.val (List.mem_range.2 x.isLt))
  rw [getD_eq_forwardTable_get hlen hcodes, getD_eq_forwardTable_get hlen hcodes] at hback
  exact Fin.ext hback

/-! ### The constructed block -/

/-- R151, R220: a constructed block's reflector is the table of an accepted key. -/
theorem refl_of_elaborate {cfg : Cfg} {b : Block} (hb : elaborate cfg = .ok b) :
    b.rom.refl.SelfInverse ∧ b.rom.refl.NoFixedPoint := by
  obtain ⟨hvalid, hrom⟩ := rom_of_elaborate hb
  obtain ⟨-, -, -, hreflector, -⟩ := (check_eq_none_iff cfg).1 hvalid
  obtain ⟨hlen, hcodes, -, hnoFixed, hinvolutive⟩ := (reflectorChecks_pass_iff _).1 hreflector
  rw [hrom]
  exact ⟨forwardTable_selfInverse hlen hcodes hinvolutive, forwardTable_noFixedPoint hlen hcodes hnoFixed⟩

/-- Settles O11: the block's reflector table is its own inverse, so what it gives it takes back, and has no fixed point. -/
theorem reflectorSwapsAndNeverFixes : Obligations.ReflectorSwapsAndNeverFixes := by
  intro cfg b hb x y
  obtain ⟨hself, hnoFixed⟩ := refl_of_elaborate hb
  rw [reflect_eq, reflect_eq]
  exact ⟨hnoFixed x, fun hxy => hxy ▸ hself x⟩

end Sys2Proof.Machine
end

section
/-! The assembly family (spec/44_assembly.md): the rows of `advance()` and the double step, the relay datapath and the
multiplexer, and the advances and responses of a text. -/

namespace Sys2Proof.Machine

/-! ### Which rotors step -/

/-- R162, the row with neither condition. -/
theorem advance_of_no_notch {rom : Rom} {p : Positions} (h1 : p.p1 ≠ rom.rotor1.notch) (h0 : p.p0 ≠ rom.rotor0.notch) :
    advance rom p = { p0 := p.p0 + 1, p1 := p.p1, p2 := p.p2 } := by
  simp [advance_eq, h1, h0]

/-- R162, the row with `n0` alone. -/
theorem advance_of_right_notch {rom : Rom} {p : Positions} (h1 : p.p1 ≠ rom.rotor1.notch)
    (h0 : p.p0 = rom.rotor0.notch) : advance rom p = { p0 := p.p0 + 1, p1 := p.p1 + 1, p2 := p.p2 } := by
  simp [advance_eq, h1, h0]

/-- R162, the two rows with `n1`. -/
theorem advance_of_middle_notch {rom : Rom} {p : Positions} (h1 : p.p1 = rom.rotor1.notch) :
    advance rom p = { p0 := p.p0 + 1, p1 := p.p1 + 1, p2 := p.p2 + 1 } := by
  simp [advance_eq, h1]

/-- R161: in each of the four rows the sequential form steps the rotors that the parallel form steps. -/
theorem advanceSequential_eq_advance (rom : Rom) (p : Positions) : advanceSequential rom p = advance rom p := by
  unfold advanceSequential advance
  cases atNotch rom p 1 with
  | true => rfl
  | false => cases atNotch rom p 0 <;> rfl

/-- Settles O19, row by row. -/
theorem advanceFollowsTheFourRows : Obligations.AdvanceFollowsTheFourRows := by
  intro rom p
  refine ⟨(advanceSequential_eq_advance rom p).symm, by rw [advance_eq], ?_, ?_, ?_⟩
  · intro h1 h0
    rw [advance_of_no_notch h1 h0]
    exact ⟨rfl, rfl⟩
  · intro h1 h0
    rw [advance_of_right_notch h1 h0]
    exact ⟨rfl, rfl⟩
  · intro h1
    rw [advance_of_middle_notch h1]
    exact ⟨rfl, rfl⟩

/-! ### The double step -/

/-- R163: one step takes a rotor away from where it was. -/
theorem sym_add_one_ne (x : Sym) : x + 1 ≠ x := add_ne_left.2 one_ne_zero

/-- R163: one before its notch, the middle rotor is carried onto it by `r0`, steps with `r2` from it, and is past it
then. -/
theorem advance_advance_of_double_step {rom : Rom} {p : Positions} (h0 : p.p0 = rom.rotor0.notch)
    (h1 : p.p1 + 1 = rom.rotor1.notch) :
    advance rom p = { p0 := p.p0 + 1, p1 := p.p1 + 1, p2 := p.p2 } ∧
      advance rom (advance rom p) = { p0 := p.p0 + 2, p1 := p.p1 + 2, p2 := p.p2 + 1 } := by
  have hbefore : p.p1 ≠ rom.rotor1.notch := h1 ▸ (sym_add_one_ne p.p1).symm
  have hfirst := advance_of_right_notch hbefore h0
  refine ⟨hfirst, ?_⟩
  rw [hfirst, advance_of_middle_notch h1, add_assoc, add_assoc]
  rfl

/-- Past its notch the middle rotor steps only if `r0` is at its own, and the left rotor does not step. -/
theorem advance_of_middle_past_notch {rom : Rom} {p : Positions} (h1 : p.p1 = rom.rotor1.notch + 1) :
    (advance rom p).p2 = p.p2 ∧ ((advance rom p).p1 = p.p1 + 1 ↔ p.p0 = rom.rotor0.notch) := by
  have hpast : p.p1 ≠ rom.rotor1.notch := h1 ▸ sym_add_one_ne _
  by_cases h0 : p.p0 = rom.rotor0.notch
  · rw [advance_of_right_notch hpast h0]
    exact ⟨rfl, iff_of_true rfl h0⟩
  · rw [advance_of_no_notch hpast h0]
    exact ⟨rfl, iff_of_false (sym_add_one_ne p.p1).symm h0⟩

/-- Settles O20: two advances bring the middle rotor past its notch, from where the third is known. -/
theorem middleRotorStepsTwiceRunning : Obligations.MiddleRotorStepsTwiceRunning := by
  refine ⟨fun rom p h0 h1 => ?_, fun rom p h1 => advance_of_middle_notch h1⟩
  obtain ⟨hfirst, hsecond⟩ := advance_advance_of_double_step h0 h1
  have hpast : (advance rom (advance rom p)).p1 = rom.rotor1.notch + 1 := by
    rw [hsecond, ← h1, add_assoc]
    rfl
  exact ⟨hfirst, hsecond, advance_of_middle_past_notch hpast⟩

/-- Settles O28: `STEP` writes what `advance()` gives, and the two forms of it agree. -/
theorem stepAdvancesThePositions : Obligations.StepAdvancesThePositions := by
  intro s p
  have hp : advance s.rom s.pos = p := advance_eq s.rom s.pos
  refine ⟨?_, (advanceSequential_eq_advance s.rom s.pos).trans hp⟩
  rw [← hp]
  rfl

/-! ### The relay datapath and the multiplexer -/

/-- R173, R118: the relay in the forward direction is the forward substitution of the rotor selected. -/
theorem relay_forward (rom : Rom) (p : Positions) (i : RotorId) (x : Sym) :
    relay rom p i .forward x = forwardSubstitute rom p i x := rfl

/-- R173, R119. -/
theorem relay_backward (rom : Rom) (p : Positions) (i : RotorId) (x : Sym) :
    relay rom p i .backward x = backwardSubstitute rom p i x := rfl

/-- R53, R201: the nine look-up phases are the phases that read a table. -/
theorem tableRead_isSome_iff (p : Phase) :
    (tableRead p).isSome = true ↔ p ∈ [Phase.plugi, .r0f, .r1f, .r2f, .refl, .r2b, .r1b, .r0b, .plugo] := by
  cases p <;> decide

/-- A phase that reads a table is one that a letter passes. -/
theorem afterLetter_of_tableRead {p : Phase} (h : (tableRead p).isSome = true) : ∃ next, p.afterLetter = some next := by
  cases p
  case idle | classify | step | emit | unused13 | unused14 | unused15 => cases h
  all_goals exact ⟨_, rfl⟩

/-- R201: the multiplexer holds `sig` in a phase that reads no table. -/
theorem signalMux_of_no_tableRead {s : State} (h : tableRead s.phase = none) : signalMux s = s.sig := by
  unfold tableRead at h
  unfold signalMux
  cases hrelay : relaySelect s.phase with
  | some select => simp [hrelay] at h
  | none =>
    have hdirect : directTable s.phase = none := by simpa [hrelay] using h
    simp [hdirect]

/-- Settles O34: the relay is the substitution of the rotor selected, and the row of a letter's phase writes to `sig` what
the multiplexer gives. -/
theorem multiplexerFeedsEveryLookUpPhase : Obligations.MultiplexerFeedsEveryLookUpPhase := by
  refine ⟨fun rom p i x => ?_, fun s hs => ?_, fun s hs => ?_⟩
  · rw [relay_forward, relay_backward, forwardSubstitute_eq, backwardSubstitute_eq]
    exact ⟨rfl, rfl⟩
  · obtain ⟨next, hnext⟩ := afterLetter_of_tableRead ((tableRead_isSome_iff s.phase).2 hs)
    exact ⟨_, exec_letterPhase hnext, rfl⟩
  · have hread : ¬(tableRead s.phase).isSome = true := mt (tableRead_isSome_iff s.phase).1 hs
    exact signalMux_of_no_tableRead (Option.not_isSome_iff_eq_none.1 hread)

/-! ### The advances and the responses of a text -/

/-- R186 to R189: one `ENC` advances once for a letter and never for another character, and keeps `FLT`. -/
theorem encodeChar_arch (rom : Rom) (c : CharCode) (a : Arch) :
    (encodeChar rom c a).1 = { a with pos := (advance rom)^[if isLetter c then 1 else 0] a.pos } := by
  cases hx : symOfChar? c with
  | none =>
    have hletter : isLetter c = false := (symOfChar?_eq_none_iff c).1 hx
    simp [encodeChar_passthrough hletter, hletter]
  | some x =>
    have hletter : isLetter c = true := by rw [← symOfChar?_isSome, hx, Option.isSome_some]
    simp [encodeChar_letter hx, hletter]

/-- R198: one `ENC` has one response. -/
theorem encodeChar_response_length (rom : Rom) (c : CharCode) (a : Arch) :
    (encodeChar rom c a).2.toList.length = 1 := by
  cases hx : symOfChar? c with
  | none => rw [encodeChar_passthrough ((symOfChar?_eq_none_iff c).1 hx), Option.toList_some, List.length_singleton]
  | some x => rw [encodeChar_letter hx, Option.toList_some, List.length_singleton]

/-- R90: a text is enciphered from its first character on. -/
theorem encryptCommands_cons_arch (rom : Rom) (c : CharCode) (text : List CharCode) (a : Arch) :
    (commandRun rom (encryptCommands (c :: text)) a).1 =
      (commandRun rom (encryptCommands text) (encodeChar rom c a).1).1 := rfl

/-- R90: the response text begins with the response to the first character. -/
theorem encryptText_cons (rom : Rom) (c : CharCode) (text : List CharCode) (a : Arch) :
    encryptText rom (c :: text) a =
      (encodeChar rom c a).2.toList ++ encryptText rom text (encodeChar rom c a).1 := rfl

/-- R164: the advances of a text are as many as its letters. -/
theorem encryptCommands_arch (rom : Rom) (text : List CharCode) (a : Arch) :
    (commandRun rom (encryptCommands text) a).1 = { a with pos := (advance rom)^[text.countP isLetter] a.pos } := by
  induction text generalizing a with
  | nil => rfl
  | cons c text ih =>
    rw [encryptCommands_cons_arch, ih, encodeChar_arch, List.countP_cons, Function.iterate_add_apply]

/-- R198, R90. -/
theorem encryptText_length (rom : Rom) (text : List CharCode) (a : Arch) :
    (encryptText rom text a).length = text.length := by
  induction text generalizing a with
  | nil => rfl
  | cons c text ih =>
    rw [encryptText_cons, List.length_append, encodeChar_response_length, ih, List.length_cons, Nat.add_comm]

/-- Settles O55, by induction on the text. -/
theorem oneAdvancePerLetterOneResponsePerCharacter : Obligations.OneAdvancePerLetterOneResponsePerCharacter :=
  fun rom a text => ⟨encryptCommands_arch rom text a, encryptText_length rom text a⟩

end Sys2Proof.Machine
end

section
/-! The machine family (spec/45_machine.md), the letter transform: the cipher of R190 is the plugboard and the rotor stack
wrapped around the reflector, so it inherits the reflector's two properties (R197). -/

namespace Sys2Proof.Machine

/-- Settles O21: each rotor look-up is shifted by the rotor's position, on the way in and on the way out. -/
theorem cipherIsTheNineLookUps : Obligations.CipherIsTheNineLookUps := by
  refine fun rom p x => ⟨rfl, ?_⟩
  simp only [cipher, forwardPass, backwardPass, forwardSubstitute_eq, backwardSubstitute_eq]
  rfl

/-! ### The two involutions -/

theorem substitute_substitute {rom : Rom} (h : rom.WellFormed) (x : Sym) : substitute rom (substitute rom x) = x := by
  obtain ⟨-, -, -, hplug, -, -⟩ := h
  exact hplug x

theorem reflect_reflect {rom : Rom} (h : rom.WellFormed) (x : Sym) : reflect rom (reflect rom x) = x := by
  obtain ⟨-, -, -, -, hrefl, -⟩ := h
  exact hrefl x

theorem reflect_ne {rom : Rom} (h : rom.WellFormed) (x : Sym) : reflect rom x ≠ x := by
  obtain ⟨-, -, -, -, -, hnoFixed⟩ := h
  exact hnoFixed x

/-! ### The cipher at fixed positions -/

/-- R190: the way into the reflector undoes the way out of it. -/
theorem forwardPass_substitute_cipher {rom : Rom} (h : rom.WellFormed) (p : Positions) (x : Sym) :
    forwardPass rom p (substitute rom (cipher rom p x)) = reflect rom (forwardPass rom p (substitute rom x)) := by
  rw [cipher, substitute_substitute h, forwardPass_backwardPass h]

/-- R197: the second time the reflector turns the symbol back, and the way out undoes the first way in. -/
theorem cipher_cipher {rom : Rom} (h : rom.WellFormed) (p : Positions) (x : Sym) :
    cipher rom p (cipher rom p x) = x := by
  rw [cipher, forwardPass_substitute_cipher h, reflect_reflect h, backwardPass_forwardPass h, substitute_substitute h]

/-- R197: a symbol enciphered to itself would enter the reflector at a fixed point. -/
theorem cipher_ne {rom : Rom} (h : rom.WellFormed) (p : Positions) (x : Sym) : cipher rom p x ≠ x := by
  intro hfixed
  have hrefl := forwardPass_substitute_cipher h p x
  rw [hfixed] at hrefl
  exact reflect_ne h _ hrefl.symm

/-- Settles O22. -/
theorem cipherIsAnInvolutionWithoutFixedPoint : Obligations.CipherIsAnInvolutionWithoutFixedPoint := fun _ p x h =>
  ⟨cipher_cipher h p x, cipher_ne h p x⟩

end Sys2Proof.Machine
end

section
/-! The rows of the commands and of `CLASS` (R186 to R200), one edge each. -/

namespace Sys2Proof.Machine

theorem State.setPhase_self {s : State} {p : Phase} (h : s.phase = p) : s.setPhase p = s := by
  subst h
  rfl

/-- R191, R200: a `NOP` and an idle edge write nothing but the phase register, which holds `IDLE` again. -/
theorem exec_nop (s : State) : exec .nop s = .next (s.setPhase .idle) := rfl

theorem exec_idle (s : State) : exec .idle s = .next (s.setPhase .idle) := rfl

/-- Settles O23. -/
theorem nopAndIdleChangeNothing : Obligations.NopAndIdleChangeNothing := by
  intro s hidle
  rw [exec_nop, exec_idle, State.setPhase_self hidle]
  exact ⟨rfl, rfl⟩

/-- R186, R200. -/
theorem exec_enc (c : CharCode) (s : State) : exec (.enc c) s = .next ((s.setChr c).setPhase .classify) := rfl

/-- Settles O24: the row writes `chr` and the phase register. -/
theorem encIsTakenForClassification : Obligations.EncIsTakenForClassification := exec_enc

/-- R192, R200: the three rotors are reset. -/
theorem exec_rst (s : State) : exec .rst s = .next ((s.setPos (startPositions s.rom)).setPhase .idle) := by
  rw [← resetPositions_eq]
  rfl

/-- Settles O25. -/
theorem rstRestoresTheStartPositions : Obligations.RstRestoresTheStartPositions := by
  intro s hidle
  rw [exec_rst, State.setPhase_self (s := s.setPos (startPositions s.rom)) hidle]
  rfl

/-- R194, R226, R200. -/
theorem exec_illegal (s : State) : exec .illegal s = .next ((s.setFlt true).setPhase .idle) := rfl

/-- Settles O26. -/
theorem reservedOpcodeSetsFltAndNothingElse : Obligations.ReservedOpcodeSetsFltAndNothingElse := by
  intro s hidle
  rw [exec_illegal, State.setPhase_self (s := s.setFlt true) hidle]
  rfl

/-! ### `CLASS` -/

theorem exec_classify_letter {s : State} {x : Sym} (h : symOfChar? s.chr = some x) :
    exec .classify s = .next (((s.setPass false).setSig x).setPhase .step) := by
  rw [exec, execClassify, h]

theorem exec_classify_passthrough {s : State} (h : symOfChar? s.chr = none) :
    exec .classify s = .next ((s.setPass true).setPhase .emit) := by
  rw [exec, execClassify, h]

/-- R72, R73: the two characters of a symbol. -/
theorem symOfChar?_eq_some_iff (c : CharCode) (x : Sym) :
    symOfChar? c = some x ↔ c.toNat = 0x41 + x.val ∨ c.toNat = 0x61 + x.val := by
  have hx : x.val < 26 := x.isLt
  obtain ⟨hupper, hlower, hother⟩ := characterClassesFollowTheTable.1 c
  by_cases hu : 0x41 ≤ c.toNat ∧ c.toNat ≤ 0x5A
  · obtain ⟨-, -, y, hy, hval, -⟩ := hupper hu
    rw [hy, Option.some_inj, Fin.ext_iff]
    omega
  by_cases hl : 0x61 ≤ c.toNat ∧ c.toNat ≤ 0x7A
  · obtain ⟨-, -, y, hy, hval, -⟩ := hlower hl
    rw [hy, Option.some_inj, Fin.ext_iff]
    omega
  · obtain ⟨-, -, hnone⟩ := hother hu hl
    rw [hnone]
    exact iff_of_false (by simp) (by omega)

/-- Settles O27: the two characters of a symbol are classified as that letter, and a character of no symbol passes
through. -/
theorem classifySeparatesLetters : Obligations.ClassifySeparatesLetters := by
  refine fun s => ⟨fun x hx => exec_classify_letter ((symOfChar?_eq_some_iff s.chr x).2 hx), fun hnone => ?_⟩
  refine exec_classify_passthrough (Option.eq_none_iff_forall_ne_some.2 fun x hx => ?_)
  obtain ⟨hupper, hlower⟩ := hnone x
  exact ((symOfChar?_eq_some_iff s.chr x).1 hx).elim hupper hlower

/-! ### Edges -/

/-- R195, R227: every row answers a next state. -/
theorem exec_answers (i : Instr) (s : State) : ∃ t, exec i s = .next t := by
  cases i
  case classify =>
    cases hx : symOfChar? s.chr with
    | some x => exact ⟨_, exec_classify_letter hx⟩
    | none => exact ⟨_, exec_classify_passthrough hx⟩
  all_goals exact ⟨_, rfl⟩

/-- Settles O44. -/
theorem everyEdgeAnswersANextState : Obligations.EveryEdgeAnswersANextState := by
  intro s
  rcases step_cases s with ⟨-, hs⟩ | ⟨-, hs⟩ <;> rw [hs]
  · exact ⟨_, rfl⟩
  · exact exec_answers _ _

/-- R200: with `rst = 0`, a phase other than `IDLE` runs its own row. -/
theorem step_of_busy {s : State} (hrst : s.pins.rst = false) (hbusy : s.phase ≠ .idle) :
    step s = exec s.phase.instr s.takeEdge := by
  rw [step_of_run hrst, fetch_of_no_command fun h => hbusy h.1]

/-- R33, R200: an accepting edge runs the row of the command. -/
theorem step_of_accepts {s : State} (h : accepts s = true) :
    step s = exec (decodeCommand s.pins.word) s.takeEdge := by
  have hrst : s.pins.rst = false := by
    simp only [accepts, Bool.and_eq_true, Bool.not_eq_true'] at h
    exact h.1.1
  obtain ⟨hidle, hvalid⟩ := (accepts_iff hrst).1 h
  rw [step_of_run hrst, fetch_of_command hidle hvalid]

/-- R89: the sample that presents a word has that word on the port. -/
@[simp] theorem Pins.word_present (w : CommandWord) : (Pins.present w).word = w := CommandWord.of_op_char w

theorem decodeCommand_of_nop (c : CharCode) : decodeCommand (CommandWord.of 0b00 c) = .nop := by
  simp [decodeCommand]

/-- R191, R200: with `rst = 0`, an idle core with a `NOP` on the port, or with no command, only uses up the sample. -/
theorem step_of_idle_nop {s : State} (hidle : s.phase = .idle) (hrst : s.pins.rst = false)
    (hnop : s.pins.cmdValid = true → decodeCommand s.pins.word = .nop) : step s = .next s.takeEdge := by
  have hphase : s.takeEdge.phase = .idle := hidle
  rw [step_of_run hrst]
  cases hvalid : s.pins.cmdValid with
  | true => rw [fetch_of_command hidle hvalid, hnop hvalid, exec_nop, State.setPhase_self hphase]
  | false => rw [fetch_of_no_command (by simp [hvalid]), hidle, Phase.instr, exec_idle, State.setPhase_self hphase]

/-- Settles O39: an idle core does nothing in both cycles, and a busy core does not look at the port. -/
theorem nopIsAnEmptyCycle : Obligations.NopIsAnEmptyCycle := by
  intro s c p rest hrst hvalid
  by_cases hidle : s.phase = .idle
  · rw [step_of_idle_nop (s := { s with inputs := Pins.present _ :: rest }) hidle rfl fun _ => ?_,
      step_of_idle_nop (s := { s with inputs := p :: rest }) hidle hrst fun hv => ?_]
    · rfl
    · exact absurd (hvalid.symm.trans hv) Bool.false_ne_true
    · exact (congrArg decodeCommand (Pins.word_present _)).trans (decodeCommand_of_nop c)
  · exact portIsReadOnlyAtAnAcceptingEdge s _ p rest hrst.symm (.inl (decide_eq_false hidle))

/-! ### The response of a cycle -/

/-- Settles O49: what the invariant says of `pass` and `sig` in `EMIT`. -/
theorem validResponseIsTheCipherOfTheCharacter : Obligations.ValidResponseIsTheCipherOfTheCharacter := by
  intro s hinv hvalid
  have hp : s.phase = .emit := (rspValid_iff s).1 hvalid
  have hflight := hinv.inFlight
  simp only [InFlight, hp] at hflight
  rw [rspChar_of_valid hvalid]
  refine ⟨fun hletter => ?_, fun x hx => ?_⟩
  · rw [(symOfChar?_eq_none_iff _).2 hletter] at hflight
    exact responseChar_pass hflight
  · rw [hx] at hflight
    obtain ⟨hpass, hsig⟩ := hflight
    rw [responseChar_letter hpass, ← Option.some.inj hsig]

end Sys2Proof.Machine
end

section
/-! Runs of several edges, and how far each phase is from `IDLE` (R195, R200). -/

namespace Sys2Proof

/-- R200, log 20: the edges from a phase until the core is idle again; from `CLASS`, those of a letter. -/
def Phase.edgesLeft : Phase → Nat
  | .idle => 0
  | .classify => 12
  | .step => 11
  | .plugi => 10
  | .r0f => 9
  | .r1f => 8
  | .r2f => 7
  | .refl => 6
  | .r2b => 5
  | .r1b => 4
  | .r0b => 3
  | .plugo => 2
  | .emit => 1
  | .unused13 | .unused14 | .unused15 => 0

theorem Phase.edgesLeft_le (p : Phase) : p.edgesLeft ≤ 12 := by
  cases p <;> decide

theorem Phase.edgesLeft_pos {p : Phase} (hused : p.used = true) (hbusy : p ≠ .idle) : 0 < p.edgesLeft := by
  cases p
  case idle => exact absurd rfl hbusy
  case unused13 | unused14 | unused15 => cases hused
  all_goals decide

theorem Phase.edgesLeft_afterLetter {p next : Phase} (h : p.afterLetter = some next) :
    p.edgesLeft = next.edgesLeft + 1 := by
  cases p <;> cases h <;> rfl

/-- A letter's phase leads neither to `IDLE` nor back to `STEP`. -/
theorem Phase.afterLetter_ne {p next : Phase} (h : p.afterLetter = some next) : next ≠ .idle ∧ next ≠ .step := by
  cases p <;> cases h <;> decide

theorem Phase.ne_idle_of_afterLetter {p next : Phase} (h : p.afterLetter = some next) : p ≠ .idle := by
  rintro rfl
  cases h

end Sys2Proof

namespace Sys2Proof.Machine

theorem Reaches.zero (s : State) : Reaches s 0 s := rfl

/-- A run of `n` edges, with an edge before it. -/
theorem Reaches.of_step {s u t : State} {n : Nat} (hstep : step s = .next u) (h : Reaches u n t) :
    Reaches s (n + 1) t := by
  have hcore : Sys2Proof.core.step s = .next u := hstep
  simp only [Reaches, Host.Core.run, hcore]
  exact h

/-- One run after another. -/
theorem Reaches.trans {s u t : State} {m n : Nat} (hsu : Reaches s m u) (hut : Reaches u n t) :
    Reaches s (m + n) t := by
  induction m generalizing s with
  | zero => rwa [Nat.zero_add, ← reaches_zero hsu]
  | succ m ih =>
    obtain ⟨v, hsv, hvu⟩ := reaches_succ hsu
    rw [Nat.succ_add]
    exact .of_step hsv (ih hvu)

/-- A host that does not reset in the next edge: the sample is one of its list, or it presents nothing. -/
theorem NoResetFor.pins_rst {s : State} {n : Nat} (h : NoResetFor (n + 1) s) : s.pins.rst = false := by
  unfold State.pins
  cases hin : s.inputs with
  | nil => rfl
  | cons p rest => exact h p (by simp [hin])

theorem NoResetFor.next {s t : State} {n : Nat} (h : NoResetFor (n + 1) s) (hin : t.inputs = s.inputs.tail) :
    NoResetFor n t := by
  intro p hp
  refine h p ?_
  rw [hin] at hp
  cases hs : s.inputs with
  | nil => simp [hs] at hp
  | cons q rest =>
    rw [hs] at hp
    exact List.mem_cons_of_mem q hp

/-! ### Termination -/

/-- R195, R200: with `rst = 0`, an edge of a busy core brings it nearer to `IDLE`. -/
theorem step_edgesLeft_lt {s t : State} (hrst : s.pins.rst = false) (hused : s.phase.used = true)
    (hbusy : s.phase ≠ .idle) (h : step s = .next t) :
    t.phase.used = true ∧ t.phase.edgesLeft < s.phase.edgesLeft := by
  rw [step_of_busy hrst hbusy] at h
  rcases s.phase.kind_cases with hp | hp | ⟨next, hn⟩ | hp | hunused
  · exact absurd hp hbusy
  · rw [hp] at h ⊢
    rcases exec_classify_cases h with ⟨x, -, rfl⟩ | ⟨-, rfl⟩ <;> simp [Phase.used, Phase.edgesLeft]
  · have hexec := exec_letterPhase (s := s.takeEdge) hn
    rw [State.takeEdge_phase, h] at hexec
    cases hexec
    exact ⟨Phase.afterLetter_used hn, Nat.lt_of_succ_le (Phase.edgesLeft_afterLetter hn).ge⟩
  · rw [hp] at h ⊢
    cases h
    simp [Phase.used, Phase.edgesLeft]
  · rw [hused] at hunused
    cases hunused

/-- R195: by induction on the bound, which each edge lowers. -/
theorem reaches_idle {n : Nat} {s : State} (hused : s.phase.used = true) (hleft : s.phase.edgesLeft ≤ n)
    (hreset : NoResetFor n s) : ∃ m t, m ≤ n ∧ Reaches s m t ∧ t.phase = .idle := by
  induction n generalizing s with
  | zero =>
    by_cases hidle : s.phase = .idle
    · exact ⟨0, s, Nat.le_refl 0, .zero s, hidle⟩
    · exact absurd (Phase.edgesLeft_pos hused hidle) (Nat.not_lt.2 hleft)
  | succ n ih =>
    by_cases hidle : s.phase = .idle
    · exact ⟨0, s, Nat.zero_le _, .zero s, hidle⟩
    · obtain ⟨u, hu⟩ := everyEdgeAnswersANextState s
      obtain ⟨-, hin, -⟩ := step_keeps_block hu
      obtain ⟨hused', hlt⟩ := step_edgesLeft_lt hreset.pins_rst hused hidle hu
      obtain ⟨m, t, hm, hut, ht⟩ := ih hused' (by omega) (hreset.next hin)
      exact ⟨m + 1, t, Nat.succ_le_succ hm, .of_step hu hut, ht⟩

/-- Settles O52. -/
theorem everyCommandTerminates : Obligations.EveryCommandTerminates := fun s hused hreset =>
  reaches_idle hused s.phase.edgesLeft_le hreset

end Sys2Proof.Machine
end

section
/-! O50: the micro-sequence of a command. A run that completes is followed from its last edge backwards: each edge
before it keeps the core busy and gives no response. -/

namespace Sys2Proof.Machine

/-- R202: after `n` edges from `s` the core is idle in `t`, busy until then, with the architectural state and the
response of `r`. -/
structure Completes (s : State) (n : Nat) (r : Arch × Option CharCode) (t : State) : Prop where
  reaches : Reaches s n t
  idle : t.phase = .idle
  arch : t.arch = r.1
  responses : t.responses = s.responses ++ r.2.toList
  block : t.block = s.block
  inputs : t.inputs = s.inputs.drop n
  busy : ∀ k u, 0 < k → k < n → Reaches s k u → busy u = true

/-- A run of one edge. -/
theorem Completes.of_last_step {s t : State} {r : Arch × Option CharCode} (hstep : step s = .next t)
    (hidle : t.phase = .idle) (harch : t.arch = r.1) (hresponses : t.responses = s.responses ++ r.2.toList) :
    Completes s 1 r t where
  reaches := .of_step hstep (.zero t)
  idle := hidle
  arch := harch
  responses := hresponses
  block := (step_keeps_block hstep).1
  inputs := by rw [(step_keeps_block hstep).2.1, List.drop_one]
  busy k u hpos hlt := by omega

/-- A run that completes, with an edge before it that leaves the core busy and gives no response. -/
theorem Completes.of_step {s u t : State} {n : Nat} {r : Arch × Option CharCode} (hstep : step s = .next u)
    (hbusy : u.phase ≠ .idle) (hresponses : u.responses = s.responses) (h : Completes u n r t) :
    Completes s (n + 1) r t where
  reaches := .of_step hstep h.reaches
  idle := h.idle
  arch := h.arch
  responses := by rw [h.responses, hresponses]
  block := h.block.trans (step_keeps_block hstep).1
  inputs := by rw [h.inputs, (step_keeps_block hstep).2.1, List.drop_tail]
  busy k v hpos hlt hv := by
    obtain ⟨k, rfl⟩ := Nat.exists_eq_add_of_lt hpos
    rw [Nat.zero_add] at hv hlt
    obtain ⟨u', hu', hv'⟩ := reaches_succ hv
    cases hstep.symm.trans hu'
    cases k with
    | zero => simpa [reaches_zero hv', Machine.busy, cmdReady] using hbusy
    | succ k => exact h.busy (k + 1) v (Nat.succ_pos k) (Nat.lt_of_succ_lt_succ hlt) hv'

/-! ### The last edges of an `ENC` -/

/-- R36, R200: `EMIT` gives the response of its cycle. -/
theorem emit_completes {s : State} (hp : s.phase = .emit) (hrst : s.pins.rst = false) :
    ∃ t, Completes s 1 (s.arch, some (responseChar s)) t := by
  refine ⟨(s.takeEdge.pushResponse (responseChar s)).setPhase .idle, .of_last_step ?_ rfl rfl rfl⟩
  rw [step_of_busy hrst (by simp [hp]), hp]
  rfl

/-- R189: `sig` holds a letter's symbol in the phases of the letter and in `EMIT`. -/
theorem phase_of_expectedSig {rom : Rom} {p : Positions} {x y : Sym} {phase : Phase}
    (h : expectedSig rom p x phase = some y) : phase = .emit ∨ ∃ next, phase.afterLetter = some next := by
  cases phase
  case emit => exact .inl rfl
  case idle | classify | unused13 | unused14 | unused15 => cases h
  all_goals exact .inr ⟨_, rfl⟩

@[simp] theorem signalMux_takeEdge (s : State) : signalMux s.takeEdge = signalMux s := rfl

/-- R200, R201: an edge of a letter in flight past `STEP` writes `sig` and the phase register. -/
theorem step_of_letter_past_step {s : State} {next : Phase} (hrst : s.pins.rst = false) (hpast : s.phase ≠ .step)
    (hn : s.phase.afterLetter = some next) :
    step s = .next { s.takeEdge with sig := signalMux s, phase := next } := by
  have hexec := exec_letterPhase (s := s.takeEdge) hn
  rw [step_of_busy hrst (Phase.ne_idle_of_afterLetter hn)]
  simpa [hpast] using hexec

/-- R190, R200: a letter in flight past `STEP` completes with the cipher at the positions it is enciphered at. -/
theorem letter_completes {n : Nat} {s : State} {x : Sym} (hleft : s.phase.edgesLeft = n)
    (hreset : NoResetFor n s) (hpast : s.phase ≠ .step) (hpass : s.pass = false)
    (hsig : expectedSig s.rom s.pos x s.phase = some s.sig) :
    ∃ t, Completes s n (s.arch, some (charOfSym (cipher s.rom s.pos x))) t := by
  induction n generalizing s with
  | zero =>
    rcases phase_of_expectedSig hsig with hp | ⟨next, hn⟩
    · simp [hp, Phase.edgesLeft] at hleft
    · simp [Phase.edgesLeft_afterLetter hn] at hleft
  | succ n ih =>
    rcases phase_of_expectedSig hsig with hp | ⟨next, hn⟩
    · rw [hp] at hleft hsig
      cases hleft
      have hcipher : cipher s.rom s.pos x = s.sig := Option.some.inj hsig
      rw [hcipher, ← responseChar_letter hpass]
      exact emit_completes hp hreset.pins_rst
    · have hstep := step_of_letter_past_step hreset.pins_rst hpast hn
      have hsig' := expectedSig_next hn hsig
      rw [if_neg hpast] at hsig'
      have hleft' : next.edgesLeft = n := Nat.succ.inj ((Phase.edgesLeft_afterLetter hn).symm.trans hleft)
      obtain ⟨hbusy, hpast'⟩ := Phase.afterLetter_ne hn
      obtain ⟨t, ht⟩ := ih (s := { s.takeEdge with sig := signalMux s, phase := next }) hleft' (hreset.next rfl)
        hpast' hpass hsig'
      exact ⟨t, .of_step hstep hbusy rfl ht⟩

/-- R161, R200: a letter in `STEP` completes with one advance and the cipher at the new positions. -/
theorem step_completes {s : State} (hp : s.phase = .step) (hreset : NoResetFor 11 s) (hpass : s.pass = false) :
    ∃ t, Completes s 11
      ({ s.arch with pos := advance s.rom s.pos }, some (charOfSym (cipher s.rom (advance s.rom s.pos) s.sig))) t := by
  have hstep : step s = .next ((s.takeEdge.setPos (advance s.rom s.pos)).setPhase .plugi) := by
    rw [step_of_busy hreset.pins_rst (by simp [hp]), hp]
    rfl
  obtain ⟨t, ht⟩ := letter_completes (n := 10) (s := (s.takeEdge.setPos (advance s.rom s.pos)).setPhase .plugi)
    (x := s.sig) rfl (hreset.next rfl) (by simp) hpass rfl
  exact ⟨t, .of_step hstep (by simp) rfl ht⟩

theorem isLetter_of_symOfChar? {c : CharCode} {x : Sym} (h : symOfChar? c = some x) : isLetter c = true := by
  rw [← symOfChar?_isSome, h, Option.isSome_some]

/-- R187, R188, R200: a character that is to be classified completes as the command level has it. -/
theorem classify_completes {n : Nat} {s : State} (hp : s.phase = .classify) (hn : edgesOf (.enc s.chr) = n + 1)
    (hreset : NoResetFor n s) : ∃ t, Completes s n (encodeChar s.rom s.chr s.arch) t := by
  cases hx : symOfChar? s.chr with
  | some x =>
    rw [edgesOf, if_pos (isLetter_of_symOfChar? hx)] at hn
    cases hn
    have hstep : step s = .next (((s.takeEdge.setPass false).setSig x).setPhase .step) := by
      rw [step_of_busy hreset.pins_rst (by simp [hp]), hp]
      exact exec_classify_letter hx
    obtain ⟨t, ht⟩ := step_completes (s := ((s.takeEdge.setPass false).setSig x).setPhase .step) rfl
      (hreset.next rfl) rfl
    rw [encodeChar_letter hx]
    exact ⟨t, .of_step hstep (by simp) rfl ht⟩
  | none =>
    have hletter : isLetter s.chr = false := (symOfChar?_eq_none_iff _).1 hx
    rw [edgesOf, if_neg (by simp [hletter])] at hn
    cases hn
    have hstep : step s = .next ((s.takeEdge.setPass true).setPhase .emit) := by
      rw [step_of_busy hreset.pins_rst (by simp [hp]), hp]
      exact exec_classify_passthrough hx
    obtain ⟨t, ht⟩ := emit_completes (s := (s.takeEdge.setPass true).setPhase .emit) rfl
      (hreset.next (t := (s.takeEdge.setPass true).setPhase .emit) rfl).pins_rst
    rw [responseChar_pass rfl] at ht
    rw [encodeChar_passthrough hletter]
    exact ⟨t, .of_step hstep (by simp) rfl ht⟩

/-! ### The accepting edge -/

theorem edgesOf_pos (i : Instr) : 0 < edgesOf i := by
  cases i
  case enc c =>
    rw [edgesOf]
    split <;> decide
  all_goals decide

/-- R202: an accepted command completes as the command level has it. -/
theorem command_completes {s : State} {i : Instr} (hacc : accepts s = true) (hi : decodeCommand s.pins.word = i)
    (hreset : NoResetFor (edgesOf i) s) : ∃ t, Completes s (edgesOf i) (commandExec s.rom i s.arch) t := by
  have hstep := step_of_accepts hacc
  have hcommand := decodeCommand_isCommand s.pins.word
  rw [hi] at hstep hcommand
  cases i
  case enc c =>
    rw [exec_enc] at hstep
    obtain ⟨n, hn⟩ : ∃ n, edgesOf (.enc c) = n + 1 := Nat.exists_eq_succ_of_ne_zero (edgesOf_pos _).ne'
    rw [hn] at hreset ⊢
    obtain ⟨t, ht⟩ := classify_completes (s := (s.takeEdge.setChr c).setPhase .classify) rfl hn (hreset.next rfl)
    exact ⟨t, .of_step hstep (by simp) rfl ht⟩
  case nop | rst | illegal => exact ⟨_, .of_last_step hstep rfl rfl (List.append_nil _).symm⟩
  all_goals cases hcommand

/-- Settles O50. -/
theorem microSequenceImplementsTheCommand : Obligations.MicroSequenceImplementsTheCommand := by
  intro s i hacc hi hreset
  obtain ⟨t, h⟩ := command_completes hacc hi hreset
  exact ⟨t, h.reaches, h.idle, h.arch, h.responses, h.block, h.inputs, h.busy⟩

end Sys2Proof.Machine
end

section
/-! The command level (R185 to R196): what one command and a list of commands make of the positions and respond. -/

namespace Sys2Proof.Machine

/-! ### `ENC`, and both cases of a letter -/

/-- R73: `upper` leaves no lower-case letter. -/
theorem upper_upper (c : CharCode) : upper (upper c) = upper c := by
  by_cases h : 0x61 ≤ c.toNat ∧ c.toNat ≤ 0x7A
  · have hup := upper_of_lowerCase h
    exact upper_of_not_lowerCase (by omega)
  · rw [upper_of_not_lowerCase h, upper_of_not_lowerCase h]

theorem symOfChar?_upper (c : CharCode) : symOfChar? (upper c) = symOfChar? c := by
  rw [symOfChar?, symOfChar?, isLetter, isLetter, upper_upper]

/-- R72, R73: a character that is no letter is in normal form. -/
theorem upper_of_not_letter {c : CharCode} (h : isLetter c = false) : upper c = c := by
  refine upper_of_not_lowerCase fun hlower => ?_
  obtain ⟨-, hletter, -⟩ := (characterClassesFollowTheTable.1 c).2.1 hlower
  rw [h] at hletter
  cases hletter

/-- Settles O54: the case of a letter is lost with its symbol. -/
theorem encAtTheCommandLevel : Obligations.EncAtTheCommandLevel := by
  refine fun rom a c => ⟨fun h => encodeChar_passthrough h rom a, fun x hx => encodeChar_letter hx rom a, fun h => ?_⟩
  obtain ⟨x, hx, -⟩ := symOfChar?_of_isLetter h
  exact (encodeChar_letter ((symOfChar?_upper c).trans hx) rom a).trans (encodeChar_letter hx rom a).symm

/-! ### Lists of commands -/

theorem commandRun_cons (rom : Rom) (i : Instr) (cmds : List Instr) (a : Arch) :
    commandRun rom (i :: cmds) a =
      ((commandRun rom cmds (commandExec rom i a).1).1,
        (commandExec rom i a).2.toList ++ (commandRun rom cmds (commandExec rom i a).1).2) := rfl

/-- R185: of the architectural state, a command's response and its positions depend on the positions alone. -/
theorem commandExec_of_same_pos {a b : Arch} (h : a.pos = b.pos) (rom : Rom) (i : Instr) :
    (commandExec rom i a).2 = (commandExec rom i b).2 ∧ (commandExec rom i a).1.pos = (commandExec rom i b).1.pos := by
  cases i
  case enc c =>
    rw [commandExec, commandExec]
    cases hx : symOfChar? c with
    | some x =>
      rw [encodeChar_letter hx, encodeChar_letter hx, h]
      exact ⟨rfl, rfl⟩
    | none =>
      have hletter : isLetter c = false := (symOfChar?_eq_none_iff c).1 hx
      rw [encodeChar_passthrough hletter, encodeChar_passthrough hletter]
      exact ⟨rfl, h⟩
  case rst => exact ⟨rfl, rfl⟩
  all_goals exact ⟨rfl, h⟩

/-- R191, R226: a `NOP` and the reserved opcode have no response and keep the positions. -/
theorem commandExec_of_nop_or_illegal {i : Instr} (h : i = .nop ∨ i = .illegal) (rom : Rom) (a : Arch) :
    (commandExec rom i a).2 = none ∧ (commandExec rom i a).1.pos = a.pos := by
  rcases h with rfl | rfl <;> exact ⟨rfl, rfl⟩

/-- Settles O56, by induction on the list of commands. -/
theorem nopAndReservedOpcodeChangeNoResponse : Obligations.NopAndReservedOpcodeChangeNoResponse := by
  intro rom a b cmds h
  induction cmds generalizing a b with
  | nil => exact ⟨rfl, h⟩
  | cons i cmds ih =>
    rw [List.filter_cons, commandRun_cons]
    by_cases hi : i = .nop ∨ i = .illegal
    · obtain ⟨hnone, hpos⟩ := commandExec_of_nop_or_illegal hi rom a
      rw [if_neg (by simpa [Classical.or_iff_not_imp_left] using hi), hnone]
      exact ih _ b (hpos.trans h)
    · obtain ⟨hresponse, hpos⟩ := commandExec_of_same_pos h rom i
      obtain ⟨hresponses, hpos'⟩ := ih _ _ hpos
      rw [if_pos (by simpa using hi), commandRun_cons, hresponse, hresponses]
      exact ⟨rfl, hpos'⟩

/-- R25: the responses to a text do not depend on `FLT`. -/
theorem encryptText_flt (rom : Rom) (text : List CharCode) (p : Positions) (f g : Bool) :
    encryptText rom text { pos := p, flt := f } = encryptText rom text { pos := p, flt := g } := by
  obtain ⟨hf, -⟩ := nopAndReservedOpcodeChangeNoResponse rom ⟨p, f⟩ ⟨p, g⟩ (encryptCommands text) rfl
  obtain ⟨hg, -⟩ := nopAndReservedOpcodeChangeNoResponse rom ⟨p, g⟩ ⟨p, g⟩ (encryptCommands text) rfl
  exact hf.trans hg.symm

/-! ### Reciprocity -/

/-- R196, R197: a character's response, enciphered from the same positions, gives the character back in normal form, and
advances as the character did. -/
theorem encodeChar_twice {rom : Rom} (h : rom.WellFormed) (c : CharCode) (a : Arch) :
    ∃ (a' : Arch) (d : CharCode), encodeChar rom c a = (a', some d) ∧ encodeChar rom d a = (a', some (upper c)) := by
  cases hx : symOfChar? c with
  | some x =>
    obtain ⟨y, hy, -, hchar⟩ := symOfChar?_of_isLetter (isLetter_of_symOfChar? hx)
    obtain rfl : x = y := Option.some.inj (hx.symm.trans hy)
    refine ⟨_, _, encodeChar_letter hx rom a, ?_⟩
    rw [encodeChar_letter (symOfChar?_charOfSym _), cipher_cipher h, hchar]
  | none =>
    have hletter : isLetter c = false := (symOfChar?_eq_none_iff c).1 hx
    refine ⟨a, c, encodeChar_passthrough hletter rom a, ?_⟩
    rw [encodeChar_passthrough hletter, upper_of_not_letter hletter]

/-- Settles O57, character by character. -/
theorem encipheringTwiceGivesTheTextBack : Obligations.EncipheringTwiceGivesTheTextBack := by
  intro rom a text h
  induction text generalizing a with
  | nil => rfl
  | cons c text ih =>
    obtain ⟨a', d, hfirst, hsecond⟩ := encodeChar_twice h c a
    calc encryptText rom (encryptText rom (c :: text) a) a
        = encryptText rom (d :: encryptText rom text a') a := by rw [encryptText_cons, hfirst]; rfl
      _ = upper c :: encryptText rom (encryptText rom text a') a' := by rw [encryptText_cons, hsecond]; rfl
      _ = normalizeText (c :: text) := by rw [ih]; rfl

end Sys2Proof.Machine
end

section
/-! Lists of commands on the machine (R60, R90, R196): each command completes before the next is presented. -/

namespace Sys2Proof.Machine

/-- R76: a command is encoded in the format `CMD`, so that its word is presented. -/
theorem presentInstr_of_isCommand {i : Instr} (h : i.isCommand = true) :
    presentInstr i = Pins.present (presentInstr i).word ∧ decodeCommand (presentInstr i).word = i := by
  have hdecode := decodeWord_encode i
  rw [presentInstr]
  cases hencode : encode i with
  | command w =>
    rw [hencode] at hdecode
    rw [Pins.word_present]
    exact ⟨rfl, hdecode⟩
  | phase c =>
    rw [hencode] at hdecode
    rw [← hdecode, decodeWord, decodePhase, Phase.instr_isCommand] at h
    cases h

theorem issue_length (i : Instr) : (issue i).length = edgesOf i := by
  rw [issue, List.length_cons, List.length_replicate, Nat.sub_add_cancel (edgesOf_pos i)]

/-- R256: the samples of one command do not reset. -/
theorem issue_rst {i : Instr} (h : i.isCommand = true) : ∀ p ∈ issue i, p.rst = false := by
  intro p hp
  rcases List.mem_cons.1 hp with rfl | hp
  · rw [(presentInstr_of_isCommand h).1]
    rfl
  · rw [List.eq_of_mem_replicate hp]
    rfl

/-- R202, R256: a command that a host issues to an idle core completes, and its samples are used up then. -/
theorem issue_completes {s : State} {i : Instr} {rest : List Pins} (h : i.isCommand = true) (hidle : s.phase = .idle)
    (hin : s.inputs = issue i ++ rest) :
    ∃ t, Completes s (edgesOf i) (commandExec s.rom i s.arch) t ∧ t.inputs = rest := by
  obtain ⟨hpresent, hdecode⟩ := presentInstr_of_isCommand h
  have hpins : s.pins = presentInstr i := by
    rw [State.pins, hin]
    rfl
  have hacc : accepts s = true := by
    rw [accepts, hpins, hpresent, (cmdReady_iff s).2 hidle]
    rfl
  have hreset : NoResetFor (edgesOf i) s := by
    rw [NoResetFor, hin, List.take_left' (issue_length i)]
    exact issue_rst h
  obtain ⟨t, ht⟩ := command_completes hacc (hpins ▸ hdecode) hreset
  refine ⟨t, ht, ?_⟩
  rw [ht.inputs, hin, List.drop_left' (issue_length i)]

/-- R60, R202: by induction on the list, from any idle core whose host issues it next. -/
theorem issueAll_completes {cmds : List Instr} (hcmds : ∀ i ∈ cmds, i.isCommand = true) {s : State}
    (hidle : s.phase = .idle) (hin : s.inputs = issueAll cmds) :
    ∃ t, Reaches s (edgesOfAll cmds) t ∧ t.phase = .idle ∧ t.arch = (commandRun s.rom cmds s.arch).1 ∧
      t.responses = s.responses ++ (commandRun s.rom cmds s.arch).2 ∧ t.block = s.block := by
  induction cmds generalizing s with
  | nil => exact ⟨s, .zero s, hidle, rfl, (List.append_nil _).symm, rfl⟩
  | cons i cmds ih =>
    obtain ⟨hi, hcmds⟩ := List.forall_mem_cons.1 hcmds
    obtain ⟨u, hu, huin⟩ := issue_completes (rest := issueAll cmds) hi hidle hin
    obtain ⟨t, hreaches, htidle, harch, hresponses, hblock⟩ := ih hcmds hu.idle huin
    rw [State.rom_eq_of_block hu.block, hu.arch] at harch hresponses
    refine ⟨t, hu.reaches.trans hreaches, htidle, harch, ?_, hblock.trans hu.block⟩
    rw [hresponses, hu.responses, List.append_assoc, commandRun_cons]

/-- Settles O59. -/
theorem servingCommandsFollowsTheCommandLevel : Obligations.ServingCommandsFollowsTheCommandLevel :=
  fun s cmds hidle hcmds => issueAll_completes (s := s.serving cmds) hcmds hidle rfl

/-! ### Reciprocity on the machine -/

/-- R106, R139, R151: every block has well-formed constants, as its configuration was accepted. -/
theorem Block.rom_wellFormed (b : Block) : b.rom.WellFormed := by
  obtain ⟨hplugboard, hplug⟩ := plug_of_elaborate (elaborate_cfg b)
  obtain ⟨hrefl, hnoFixed⟩ := refl_of_elaborate (elaborate_cfg b)
  have hself : b.rom.plug.SelfInverse := hplug ▸ plugTable_selfInverse hplugboard
  exact ⟨buildRom_rotor_wellFormed b.valid 0, buildRom_rotor_wellFormed b.valid 1, buildRom_rotor_wellFormed b.valid 2,
    hself, hrefl, hnoFixed⟩

theorem reset_encrypt_isCommand (text : List CharCode) :
    ∀ i ∈ resetCommands ++ encryptCommands text, i.isCommand = true := by
  simp [resetCommands, encryptCommands, Instr.isCommand]

/-- R192, R90: a text after `RST` is enciphered from the start positions. -/
theorem reset_encrypt_responses (rom : Rom) (text : List CharCode) (a : Arch) :
    (commandRun rom (resetCommands ++ encryptCommands text) a).2 =
      encryptText rom text { a with pos := startPositions rom } := rfl

/-- R196: `RST` and a text, served to an idle core, give the text enciphered from the start positions. -/
theorem serving_reset_encrypt (s : State) (text : List CharCode) (hidle : s.phase = .idle) :
    ∃ t, Reaches (s.serving (resetCommands ++ encryptCommands text))
        (edgesOfAll (resetCommands ++ encryptCommands text)) t ∧
      t.phase = .idle ∧ t.block = s.block ∧
      t.responses = encryptText s.rom text { pos := startPositions s.rom, flt := false } := by
  obtain ⟨t, hreaches, htidle, -, hresponses, hblock⟩ :=
    servingCommandsFollowsTheCommandLevel s _ hidle (reset_encrypt_isCommand text)
  refine ⟨t, hreaches, htidle, hblock, ?_⟩
  rw [hresponses, reset_encrypt_responses]
  exact encryptText_flt s.rom text _ _ _

/-- Settles O58: both runs encipher from the start positions, so the second undoes the first. -/
theorem decipheringOnTheMachineGivesTheTextBack : Obligations.DecipheringOnTheMachineGivesTheTextBack := by
  intro s text hidle
  obtain ⟨t, htreaches, htidle, htblock, htresponses⟩ := serving_reset_encrypt s text hidle
  obtain ⟨u, hureaches, -, -, huresponses⟩ := serving_reset_encrypt t t.responses htidle
  refine ⟨t, u, htreaches, hureaches, ?_⟩
  rw [huresponses, State.rom_eq_of_block htblock, htresponses]
  exact encipheringTwiceGivesTheTextBack s.rom _ text s.block.rom_wellFormed

end Sys2Proof.Machine
end

section
/-! The exceptions family (spec/60_exceptions.md), the validity check: each step of the model's check decides its step of
R221, whatever the steps before it gave, so the first check that fails is the first step that fails. -/

namespace Sys2Proof.Machine

/-! ### The conditions of R221 -/

/-- R221 steps 3, 8. -/
theorem eachOnce_iff (codes : List Nat) : eachOnce codes = true ↔ ∀ x < 26, codes.count x = 1 := by
  simp [eachOnce]

/-- The value 26 that stands for a missing entry is no symbol, so an entry read as a symbol is there. -/
theorem getD_26_eq_iff {codes : List Nat} {i x : Nat} (hx : x < 26) : codes.getD i 26 = x ↔ codes[i]? = some x := by
  rw [List.getD_eq_getElem?_getD]
  cases codes[i]? with
  | none => simp [hx.ne']
  | some y => simp

/-- R221 step 9. -/
theorem noFixedPoint_iff (codes : List Nat) : noFixedPoint codes = true ↔ ∀ i < 26, codes[i]? ≠ some i := by
  simp only [noFixedPoint, List.all_eq_true, List.mem_range, bne_iff_ne]
  exact forall₂_congr fun i hi => not_congr (getD_26_eq_iff hi)

/-- R221 step 10: an index with no entry is read as 26, where there is no entry either. -/
theorem involutive_iff (codes : List Nat) :
    involutive codes = true ↔ ∀ i < 26, ∃ j, codes[i]? = some j ∧ codes[j]? = some i := by
  simp only [involutive, List.all_eq_true, List.mem_range, beq_iff_eq]
  refine forall₂_congr fun i hi => ?_
  rw [getD_26_eq_iff hi, List.getD_eq_getElem?_getD]
  cases hentry : codes[i]? with
  | none =>
    have hlen : codes.length ≤ i := List.getElem?_eq_none_iff.1 hentry
    have hmissing : codes[26]? = none := List.getElem?_eq_none (by omega)
    simp [hmissing]
  | some j => simp

/-- R221 step 12: pair `k` is `(s[2k], s[2k+1])`. -/
theorem noSelfPair_iff (codes : List Nat) :
    noSelfPair codes = true ↔ ∀ k < codes.length / 2, codes[2 * k]? ≠ codes[2 * k + 1]? := by
  induction codes using pairsOf.induct with
  | case1 a b rest ih =>
    have hhead : noSelfPair (a :: b :: rest) = true ↔ a ≠ b ∧ noSelfPair rest = true := by simp [noSelfPair, pairsOf]
    have hlen : (a :: b :: rest).length / 2 = rest.length / 2 + 1 := Nat.add_div_right _ two_pos
    rw [hhead, ih, hlen, Nat.forall_lt_succ_left]
    simp [Nat.mul_add]
  | case2 => simp [noSelfPair, pairsOf]
  | case3 => simp [noSelfPair, pairsOf]

/-- R221 step 13. -/
theorem pairedDistinct_iff (codes : List Nat) :
    pairedDistinct codes = true ↔ (codes.take (2 * (codes.length / 2))).Nodup := decide_eq_true_iff

/-- R88: the default reflector, as the list of its symbols. -/
theorem reflectorB_eq : reflectorB =
    [24, 17, 20, 7, 16, 18, 11, 3, 15, 23, 13, 6, 14, 10, 12, 8, 4, 1, 5, 25, 2, 22, 21, 9, 0, 19] := by
  decide

/-! ### Each check decides its step -/

/-- The check passes exactly when the step of R221 holds, and gives the step's fault. -/
def Check.Decides (c : Check) (st : Prop × InvalidConfig) : Prop := (c.passes = true ↔ st.1) ∧ c.fault = st.2

/-- R221 steps 1 to 5. -/
theorem rotorChecks_decide (item : Item) (r : RotorCfg) :
    List.Forall₂ Check.Decides (rotorChecks item r) (rotorSteps item r) :=
  .cons ⟨beq_iff_eq, rfl⟩ <| .cons ⟨inAlphabet_iff _, rfl⟩ <| .cons ⟨eachOnce_iff _, rfl⟩ <|
    .cons ⟨decide_eq_true_iff, rfl⟩ <| .cons ⟨decide_eq_true_iff, rfl⟩ .nil

/-- R221: the model's checks stand in the order of the steps. -/
theorem checks_decide (cfg : Cfg) : List.Forall₂ Check.Decides (checks cfg) (validitySteps cfg) := by
  have hrotors := List.rel_append (List.rel_append (rotorChecks_decide .rotor0 cfg.rotor0)
    (rotorChecks_decide .rotor1 cfg.rotor1)) (rotorChecks_decide .rotor2 cfg.rotor2)
  rw [checks, validitySteps, List.append_assoc, ← reflectorB_eq]
  exact List.rel_append hrotors <|
    .cons ⟨beq_iff_eq, rfl⟩ <| .cons ⟨inAlphabet_iff _, rfl⟩ <| .cons ⟨eachOnce_iff _, rfl⟩ <|
    .cons ⟨noFixedPoint_iff _, rfl⟩ <| .cons ⟨involutive_iff _, rfl⟩ <|
    .cons ⟨inAlphabet_iff _, rfl⟩ <| .cons ⟨noSelfPair_iff _, rfl⟩ <| .cons ⟨pairedDistinct_iff _, rfl⟩ .nil

/-! ### The first failing check -/

/-- Checks that decide their steps all pass exactly when every step holds. -/
theorem forall_passes_iff {cs : List Check} {sts : List (Prop × InvalidConfig)} (h : List.Forall₂ Check.Decides cs sts) :
    (∀ c ∈ cs, c.passes = true) ↔ ∀ st ∈ sts, st.1 := by
  induction h with
  | nil => simp
  | cons hhead _ ih => rw [List.forall_mem_cons, List.forall_mem_cons, hhead.1, ih]

/-- The first check that does not pass has the fault of the first step that fails. -/
theorem find?_fault_of_first_failing {cs : List Check} {sts : List (Prop × InvalidConfig)}
    (h : List.Forall₂ Check.Decides cs sts) {k : Nat} {st : Prop × InvalidConfig} (hst : sts[k]? = some st)
    (hfails : ¬ st.1) (hbefore : ∀ (j : Nat) (st' : Prop × InvalidConfig), j < k → sts[j]? = some st' → st'.1) :
    (cs.find? fun c => !c.passes).map Check.fault = some st.2 := by
  induction h generalizing k with
  | nil => simp at hst
  | @cons c st₀ cs sts hhead _ ih =>
    obtain ⟨hpasses, hfault⟩ := hhead
    cases k with
    | zero =>
      obtain rfl : st₀ = st := Option.some.inj hst
      have hc : c.passes = false := Bool.eq_false_iff.2 (mt hpasses.1 hfails)
      rw [List.find?_cons_of_pos (by simp [hc]), Option.map_some, hfault]
    | succ k =>
      have hc : c.passes = true := hpasses.2 (hbefore 0 st₀ k.succ_pos rfl)
      rw [List.find?_cons_of_neg (by simp [hc])]
      exact ih hst fun j st' hj hst' => hbefore (j + 1) st' (Nat.succ_lt_succ hj) hst'

/-- Settles O6: the checks decide the thirteen steps item by item and in their order. -/
theorem validityCheckReportsTheFirstFailingStep : Obligations.ValidityCheckReportsTheFirstFailingStep := by
  refine ⟨codeOfLetter_lt_iff, fun cfg => ⟨?_, fun k st hst hfails hbefore => ?_⟩⟩
  · rw [check, Option.map_eq_none_iff, List.find?_eq_none, ← forall_passes_iff (checks_decide cfg)]
    simp only [Bool.not_eq_true', Bool.not_eq_false]
  · exact find?_fault_of_first_failing (checks_decide cfg) hst hfails hbefore

end Sys2Proof.Machine
end

section
/-! The exceptions family (spec/60_exceptions.md), construction: what `construct` answers, and the state it starts in. -/

namespace Sys2Proof.Machine

/-- R220: an invalid configuration gives no core. -/
theorem construct_of_invalid {cfg : Cfg} {f : InvalidConfig} (h : check cfg = some f) :
    construct cfg = .fault (.invalidConfig f.cause f.item) := by
  rw [construct, elaborate_of_invalid h]

/-- R220: a block that elaboration builds starts in the reset state. -/
theorem construct_of_elaborate {cfg : Cfg} {b : Block} (h : elaborate cfg = .ok b) :
    construct cfg = .next (State.resetOf b) := by
  rw [construct, h]

/-- R40: in the reset state of a block no command is in flight, and every block's constants are well formed. -/
theorem State.resetOf_inv (b : Block) : (State.resetOf b).Inv := ⟨b.rom_wellFormed, rfl, trivial⟩

/-- Settles O7: `construct` follows elaboration, which follows the check. -/
theorem constructionGivesAGoodCoreOrTheFault : Obligations.ConstructionGivesAGoodCoreOrTheFault := fun _ =>
  ⟨fun _ hinvalid => construct_of_invalid hinvalid, fun hvalid =>
    have helaborate := elaborate_of_valid hvalid
    ⟨_, helaborate, construct_of_elaborate helaborate, rfl, State.resetOf_inv _⟩⟩

end Sys2Proof.Machine
end

section
/-! The reset family (spec/70_reset_and_hazards.md) and the statements beside it: the unused phase codes, the invariant of
the reset state, and the reset edge. -/

namespace Sys2Proof.Machine

/-- Settles O33: the three rows are the one effect of an unused phase code. -/
theorem unusedPhasesAreTreatedAsIdleOrIgnored : Obligations.UnusedPhasesAreTreatedAsIdleOrIgnored := by
  intro s i hi
  have hexec : exec i s = .next (unusedPhase s) := by
    simp only [List.mem_cons, List.not_mem_nil, or_false] at hi
    rcases hi with rfl | rfl | rfl <;> rfl
  rw [hexec]
  exact (unusedPhase_cases s).imp (congrArg _) (congrArg _)

/-- Settles O47: `State.reset` is the reset state of one block. -/
theorem invariantHoldsAtReset : Obligations.InvariantHoldsAtReset := State.resetOf_inv resetBlock

/-! ### Reset edges -/

/-- Settles O36: the reset edge writes every register, and `EMIT` alone had a response to give. -/
theorem resetEdgeAbandonsEverything : Obligations.ResetEdgeAbandonsEverything := by
  intro s hrst
  rw [step_of_reset hrst, resetEdge_eq, validResponse_eq]
  exact ⟨_, _, _, rfl⟩

/-- R250, R251: a reset edge leaves the start positions, `FLT` 0 and `IDLE`. -/
theorem reset_edge_observable {s : State} (hrst : s.pins.rst = true) :
    ∃ t, step s = .next t ∧ t.pos = startPositions s.rom ∧ t.flt = false ∧ t.phase = .idle := by
  obtain ⟨c, x, b, hstep⟩ := resetEdgeAbandonsEverything s hrst
  exact ⟨_, hstep, rfl, rfl, rfl⟩

theorem pins_rst_of_replicate_reset {n : Nat} {s : State} {rest : List Pins}
    (hin : s.inputs = List.replicate (n + 1) Pins.reset ++ rest) : s.pins.rst = true := by
  rw [State.pins, hin]
  rfl

/-- R252: by induction on the edges. The last one alone decides, and no edge changes the constants it reads. -/
theorem reset_edges_observable {n : Nat} {s : State} {rest : List Pins}
    (hin : s.inputs = List.replicate (n + 1) Pins.reset ++ rest) :
    ∃ t, Reaches s (n + 1) t ∧ t.pos = startPositions s.rom ∧ t.flt = false ∧ t.phase = .idle ∧ t.block = s.block := by
  induction n generalizing s with
  | zero =>
    obtain ⟨t, hstep, hpos, hflt, hphase⟩ := reset_edge_observable (pins_rst_of_replicate_reset hin)
    obtain ⟨hblock, -, -⟩ := step_keeps_block hstep
    exact ⟨t, .of_step hstep (.zero t), hpos, hflt, hphase, hblock⟩
  | succ n ih =>
    obtain ⟨u, hstep, -⟩ := reset_edge_observable (pins_rst_of_replicate_reset hin)
    obtain ⟨hblock, hinputs, -⟩ := step_keeps_block hstep
    rw [hin] at hinputs
    obtain ⟨t, hut, hpos, hflt, hphase, hblock'⟩ := ih hinputs
    rw [State.rom_eq_of_block hblock] at hpos
    exact ⟨t, .of_step hstep hut, hpos, hflt, hphase, hblock'.trans hblock⟩

theorem ports_of_idle {s : State} (h : s.phase = .idle) :
    cmdReady s = true ∧ busy s = false ∧ rspValid s = false := by
  simp [busy, cmdReady, rspValid, h]

/-- Settles O37: the ports are those of an idle core. -/
theorem resetMayLastAnyNumberOfEdges : Obligations.ResetMayLastAnyNumberOfEdges := by
  rintro n s ⟨rest, hin⟩
  obtain ⟨t, hst, hpos, hflt, hphase, hblock⟩ := reset_edges_observable hin
  exact ⟨t, hst, hpos, hflt, hphase, hblock, ports_of_idle hphase⟩

end Sys2Proof.Machine
end

section
/-! O51: the cycles of an `ENC`. The edges left until `IDLE` name the cycle that a phase is in, and so what the ports
show in it (R262, log 20). -/

namespace Sys2Proof

theorem Phase.edgesLeft_eq_one_iff (p : Phase) : p.edgesLeft = 1 ↔ p = .emit := by
  cases p <;> decide

theorem Phase.edgesLeft_eq_eleven_iff (p : Phase) : p.edgesLeft = 11 ↔ p = .step := by
  cases p <;> decide

theorem Phase.edgesLeft_pos_iff {p : Phase} (hused : p.used = true) : 0 < p.edgesLeft ↔ p ≠ .idle :=
  ⟨by rintro h rfl; exact absurd h (by decide), Phase.edgesLeft_pos hused⟩

theorem Phase.used_of_edgesLeft_pos {p : Phase} (h : 0 < p.edgesLeft) : p.used = true := by
  cases p
  case unused13 | unused14 | unused15 => exact absurd h (by decide)
  all_goals rfl

end Sys2Proof

namespace Sys2Proof.Machine

theorem busy_iff (s : State) : busy s = true ↔ s.phase ≠ .idle := by
  rw [busy, Bool.not_eq_true', ← Bool.not_eq_true, cmdReady_iff]

theorem busy_iff_edgesLeft_pos {s : State} (hused : s.phase.used = true) :
    busy s = true ↔ 0 < s.phase.edgesLeft := by
  rw [busy_iff, Phase.edgesLeft_pos_iff hused]

theorem rspValid_iff_edgesLeft (s : State) : rspValid s = true ↔ s.phase.edgesLeft = 1 := by
  rw [rspValid_iff, Phase.edgesLeft_eq_one_iff]

/-! ### A letter -/

/-- R21: of the edges of a busy core that is not reset, the one that ends `STEP` alone changes the positions. -/
theorem step_pos_of_busy {s t : State} (hrst : s.pins.rst = false) (hbusy : s.phase ≠ .idle) (h : step s = .next t) :
    t.pos = if s.phase = .step then advance s.rom s.pos else s.pos := by
  have hquiet : ¬ accepts s = true := fun hacc => hbusy ((accepts_iff hrst).1 hacc).1
  rw [positionsChangeOnlyByStepRstAndReset s t h]
  simp [hrst, hquiet]

/-- R200: with a letter in flight, an edge without reset brings the core exactly one edge nearer to `IDLE`. -/
theorem step_of_letter {n : Nat} {s : State} (hrst : s.pins.rst = false) (hleft : s.phase.edgesLeft = n + 1)
    (hletter : s.phase = .classify → isLetter s.chr = true) :
    ∃ t, step s = .next t ∧ t.phase.used = true ∧ t.phase.edgesLeft = n := by
  have hbusy : s.phase ≠ .idle := fun hidle => by simp [hidle, Phase.edgesLeft] at hleft
  have hused : s.phase.used = true := Phase.used_of_edgesLeft_pos (by omega)
  rw [step_of_busy hrst hbusy]
  rcases s.phase.kind_cases with hp | hp | ⟨next, hn⟩ | hp | hunused
  · exact absurd hp hbusy
  · obtain ⟨x, hx⟩ := Option.isSome_iff_exists.1 ((symOfChar?_isSome s.chr).trans (hletter hp))
    rw [hp] at hleft ⊢
    cases hleft
    exact ⟨_, exec_classify_letter hx, rfl, rfl⟩
  · have hexec := exec_letterPhase (s := s.takeEdge) hn
    rw [Phase.edgesLeft_afterLetter hn] at hleft
    exact ⟨_, hexec, Phase.afterLetter_used hn, Nat.succ.inj hleft⟩
  · rw [hp] at hleft ⊢
    cases hleft
    exact ⟨_, rfl, rfl, rfl⟩
  · rw [hused] at hunused
    cases hunused

/-- R262: a letter in flight, `n` edges before it completes. The positions have advanced once `STEP`, 11 edges before
the end, is over. -/
theorem letter_reaches {k n : Nat} {s : State} (hleft : s.phase.edgesLeft = n + k)
    (hused : s.phase.used = true) (hreset : NoResetFor (n + k) s)
    (hletter : s.phase = .classify → isLetter s.chr = true) :
    ∃ t, Reaches s k t ∧ t.phase.used = true ∧ t.phase.edgesLeft = n ∧
      t.pos = if n < 11 ∧ 11 ≤ n + k then advance s.rom s.pos else s.pos := by
  induction k generalizing s with
  | zero => exact ⟨s, .zero s, hused, hleft, (if_neg (by omega)).symm⟩
  | succ k ih =>
    obtain ⟨u, hstep, hused', hleft'⟩ := step_of_letter (n := n + k) hreset.pins_rst hleft hletter
    obtain ⟨hblock, hinputs, -⟩ := step_keeps_block hstep
    have hpast : u.phase ≠ .classify := fun hp => by
      have hle := s.phase.edgesLeft_le
      have htwelve : u.phase.edgesLeft = 12 := by rw [hp, Phase.edgesLeft]
      omega
    obtain ⟨t, hut, htused, htleft, htpos⟩ := ih hleft' hused' (hreset.next hinputs) fun hp => absurd hp hpast
    refine ⟨t, .of_step hstep hut, htused, htleft, ?_⟩
    have hupos := step_pos_of_busy hreset.pins_rst ((Phase.edgesLeft_pos_iff hused).1 (by omega)) hstep
    have heleven := Phase.edgesLeft_eq_eleven_iff s.phase
    rw [hleft] at heleven
    rw [htpos, State.rom_eq_of_block hblock, hupos]
    by_cases hp : s.phase = .step
    · have hnow := heleven.2 hp
      rw [if_pos hp, if_neg (by omega), if_pos (by omega)]
    · have hlater := mt heleven.1 hp
      rw [if_neg hp]
      exact if_congr (by omega) rfl rfl

/-- R262: the cycles of a letter's `ENC`, counted from the accepting edge: cycle `k` is `13 - k` edges before `IDLE`. -/
theorem letter_cycles {k : Nat} {s u : State} (hstep : step s = .next u) (hpos : u.pos = s.pos)
    (hp : u.phase = .classify) (hletter : isLetter u.chr = true) (hreset : NoResetFor 12 u) (hk : 1 ≤ k)
    (hk' : k ≤ 13) :
    ∃ t, Reaches s k t ∧ (busy t = true ↔ k ≤ 12) ∧ (rspValid t = true ↔ k = 12) ∧
      t.pos = if k ≤ 2 then s.pos else advance s.rom s.pos := by
  obtain ⟨j, rfl⟩ := Nat.exists_eq_add_of_le' hk
  obtain ⟨n, hn⟩ : ∃ n, 12 = n + j := Nat.exists_eq_add_of_le' (Nat.le_of_succ_le_succ hk')
  have huleft : u.phase.edgesLeft = n + j := by rw [← hn, hp, Phase.edgesLeft]
  obtain ⟨t, hut, hused, hleft, htpos⟩ := letter_reaches huleft (by rw [hp, Phase.used]) (hn ▸ hreset) fun _ => hletter
  refine ⟨t, .of_step hstep hut, ?_, ?_, ?_⟩
  · rw [busy_iff_edgesLeft_pos hused, hleft]
    omega
  · rw [rspValid_iff_edgesLeft, hleft]
    omega
  · rw [htpos, hpos, State.rom_eq_of_block (step_keeps_block hstep).1, ← ite_not]
    exact if_congr (by omega) rfl rfl

/-! ### A passthrough -/

/-- R187, R188, R200: a passthrough goes from `CLASS` to its response cycle, in which the port shows the character. -/
theorem step_of_passthrough {s : State} (hrst : s.pins.rst = false) (hp : s.phase = .classify)
    (hletter : isLetter s.chr = false) : ∃ t, step s = .next t ∧ t.phase = .emit ∧ rspChar t = s.chr := by
  refine ⟨(s.takeEdge.setPass true).setPhase .emit, ?_, rfl, rfl⟩
  rw [step_of_busy hrst (by simp [hp]), hp]
  exact exec_classify_passthrough ((symOfChar?_eq_none_iff _).2 hletter)

/-- R262: the cycles of a passthrough's `ENC`, counted from the accepting edge: `CLASS`, `EMIT`, `IDLE`. -/
theorem passthrough_cycles {k : Nat} {s u : State} (hstep : step s = .next u) (hpos : u.pos = s.pos)
    (hp : u.phase = .classify) (hletter : isLetter u.chr = false) (hreset : NoResetFor 2 u) (hk : 1 ≤ k) (hk' : k ≤ 3) :
    ∃ t, Reaches s k t ∧ (busy t = true ↔ k ≤ 2) ∧ (rspValid t = true ↔ k = 2) ∧ (k = 2 → rspChar t = u.chr) ∧
      t.pos = s.pos := by
  have hsu : Reaches s 1 u := .of_step hstep (.zero u)
  obtain ⟨v, hv, hvp, hvchar⟩ := step_of_passthrough hreset.pins_rst hp hletter
  have hsv : Reaches s 2 v := .of_step hstep (.of_step hv (.zero v))
  have hvpos : v.pos = u.pos := by
    rw [step_pos_of_busy hreset.pins_rst (by simp [hp]) hv, if_neg (by simp [hp])]
  obtain ⟨w, hw⟩ := emit_completes hvp (hreset.next (step_keeps_block hv).2.1).pins_rst
  have hwpos : w.pos = v.pos := congrArg Arch.pos hw.arch
  interval_cases k
  · exact ⟨u, hsu, by simp [busy_iff, hp], by simp [rspValid_iff, hp], by simp, hpos⟩
  · exact ⟨v, hsv, by simp [busy_iff, hvp], by simp [rspValid_iff, hvp], fun _ => hvchar, hvpos.trans hpos⟩
  · exact ⟨w, hsv.trans hw.reaches, by simp [busy_iff, hw.idle], by simp [rspValid_iff, hw.idle], by simp,
      hwpos.trans (hvpos.trans hpos)⟩

/-- Settles O51: the accepting edge takes the character into `chr` and leads to `CLASS`, the first of the cycles. -/
theorem encTakesItsCycles : Obligations.EncTakesItsCycles := by
  intro s c hacc hi hreset
  have hstep := step_of_accepts hacc
  rw [hi, exec_enc] at hstep
  rw [edgesOf] at hreset
  refine ⟨fun hletter k hk hk' => ?_, fun hletter k hk hk' => ?_⟩
  · rw [if_pos hletter] at hreset
    exact letter_cycles hstep rfl rfl hletter (hreset.next rfl) hk hk'
  · rw [if_neg (by simp [hletter])] at hreset
    exact passthrough_cycles hstep rfl rfl hletter (hreset.next rfl) hk hk'

end Sys2Proof.Machine
end
